-- ==== Sys2Proof/Word.lean ====
section
/-! DEFINITION. The words of the block: bytes, the 72-bit command word, frames. -/

namespace Sys2Proof

/-- An item of the TX and RX streams (R31). -/
abbrev Byte := BitVec 8

/-- The command word `CW` (R57). -/
abbrev CommandWord := BitVec 72

/-- A byte sequence, element 0 first on the wire (00_scope section 6, R50). -/
abbrev Frame := List Byte

end Sys2Proof
end

