-- ==== Sys2Proof/Syntax.lean ====
section
/-! DEFINITION. The operations of the block and the wire frames, one constructor per row of the opcode table. -/

namespace Sys2Proof

/-- The width selector `WS` (R67): `w` = 1 or 2 bytes. -/
inductive Width where
  | one
  | two
  deriving DecidableEq, Repr

/-- The signedness selector `SG` (R67). -/
inductive Signedness where
  | unsigned
  | signed
  deriving DecidableEq, Repr

/-- A type token `U8`, `S8`, `U16`, `S16` (R67). -/
structure IntType where
  w : Width
  s : Signedness
  deriving DecidableEq, Repr

/-- The seven discrete frame kinds (R100). -/
inductive Kind where
  | passive
  | safe
  | full
  | clean
  | dock
  | reset
  | beep
  deriving DecidableEq, Repr

/-- The 23 operations (R64) and the eight wire frames (R51), one constructor per row of the opcode table.
Integer operands are the raw 32-bit fields `A` and `B` (R59, R60); `sym` is the key symbol code (R62);
DECINT carries the `n` bytes presented (R61); a Drive frame carries the two 16-bit speed fields (R52). -/
inductive Instr where
  | attach
  | detach
  | encPassive
  | encSafe
  | encFull
  | encClean
  | encDock
  | encReset
  | encBeep
  | encDrive (vr vl : BitVec 32)
  | txPassive
  | txSafe
  | txFull
  | txClean
  | txDock
  | txReset
  | txBeep
  | txDrive (vr vl : BitVec 32)
  | keyPress (sym : BitVec 4)
  | keyRelease (sym : BitVec 4)
  | read (t : IntType)
  | encint (value : BitVec 32) (t : IntType)
  | decint (bs : List Byte) (t : IntType)
  | wirePassive
  | wireSafe
  | wireFull
  | wireClean
  | wireDock
  | wireReset
  | wireBeep
  | wireDrive (vr vl : BitVec 16)
  deriving DecidableEq, Repr

/-- What the environment can put before the block for one step: a command word (R57), a wire frame handed over
for transmission (DESIGN CHOICE, log 7), or reset (R200, log 14). -/
inductive Signal where
  | command (w : CommandWord)
  | frame (bs : Frame)
  | reset
  deriving DecidableEq, Repr

end Sys2Proof
end

