-- ==== Sys2Proof/Config.lean ====
section
/-! DEFINITION. What an implementation fixes (R2, R3) and the two open parameters (D21, D22).
The values of this hardware are in Machine/Cfg.lean. -/

namespace Sys2Proof

/-- The configuration record `CFG` (R2). `cr_even` is the constraint of R3: a record with an odd `CR` cannot be
built (log 12); `CV` and `CR` are natural numbers, so that `0 <= CV` and `0 <= CR` hold. -/
structure Cfg where
  opPassive : Byte
  opSafe : Byte
  opFull : Byte
  opClean : Byte
  opDock : Byte
  opReset : Byte
  beep : Vector Byte 7
  opDrive : Byte
  cv : Nat
  cr : Nat
  keymap : BitVec 4 → Option Kind
  cr_even : cr % 2 = 0

/-- UART line parameters (`LINE`, R2, R31): outside the block. -/
structure LineParams where
  baud : Nat
  dataBits : Nat
  parity : Option Bool
  stopBits : Nat
  lsbFirst : Bool
  deriving DecidableEq, Repr, Inhabited

/-- `T_RD_TIMEOUT` (R2, R192): OPEN, no rule depends on it (log 11). `none` would be a transport with no timeout. -/
opaque Config.readTimeout : Option Nat

/-- `LINE` (R2, R31): OPEN, no rule depends on it (log 11). -/
opaque Config.line : LineParams

end Sys2Proof
end

