-- ==== Sys2Proof/Machine/Cfg.lean ====
section
/-! DEFINITION. The configuration of this hardware: the values of R2 and the key map of R66. -/

namespace Sys2Proof.Machine

/-- `CFG.KEYMAP` (R66): codes 4 to 10 are the seven discrete commands in order, every other code is bound to none.
(Codes 0 to 3 are direction keys and never looked up here, R144.) -/
def keymap (sym : BitVec 4) : Option Kind :=
  match sym.toNat with
  | 4 => some .passive
  | 5 => some .safe
  | 6 => some .full
  | 7 => some .clean
  | 8 => some .dock
  | 9 => some .reset
  | 10 => some .beep
  | _ => none

/-- `CFG` with the values that are normative for this hardware (R2). -/
def cfg : Cfg where
  opPassive := 128
  opSafe := 131
  opFull := 132
  opClean := 135
  opDock := 143
  opReset := 7
  beep := #v[140, 3, 1, 64, 16, 141, 3]
  opDrive := 145
  cv := 150
  cr := 100
  keymap := keymap
  cr_even := by decide

end Sys2Proof.Machine
end

