-- ==== Sys2Proof/Machine/State.lean ====
section
/-! DEFINITION. The state of the block and of its environment, as plain data, and the state after reset. -/

namespace Sys2Proof.Machine

/-- Status codes (R70). -/
inductive Status where
  | ok
  | rangeError
  | formatError
  | connectionLost
  | illegalCommand
  deriving DecidableEq, Repr

/-- The response record (R69). `fbytes` is padded with zeros from index `flen` on. -/
structure Response where
  status : Status
  sent : Bool
  flen : BitVec 3
  fbytes : Vector Byte 7
  value : BitVec 32
  vw : Bool
  vs : Bool
  di : BitVec 4
  hv : Bool
  deriving DecidableEq, Repr

/-- Register `DI` (R10): forward, backward, left, right. -/
structure DriveIntent where
  f : Bool
  b : Bool
  l : Bool
  r : Bool
  deriving DecidableEq, Repr

/-- Register `LS` (R12). -/
structure LastSent where
  valid : Bool
  frame : Vector Byte 5
  deriving DecidableEq, Repr

/-- What `TxWrite` answers (R34): all bytes taken, or a failure after `k` of them. -/
inductive TxAnswer where
  | ok
  | fault (k : Nat)
  deriving DecidableEq, Repr

/-- What `RxReadExact` answers (R35). `serve`: the bytes asked for if that many are there, else a short read of what
is there (a time-out). `short k`: a short read of at most `k` bytes. `fault k`: a transport fault that took `k`
bytes. `never`: no answer at all (R205). -/
inductive RxAnswer where
  | serve
  | short (k : Nat)
  | fault (k : Nat)
  | never
  deriving DecidableEq, Repr

/-- The environment's free inputs of one operation: one answer of each primitive, since each is called at most once
in an operation (R34, R35, R36; log 2). -/
structure Answers where
  isOpen : Bool
  tx : TxAnswer
  rx : RxAnswer
  deriving DecidableEq, Repr

/-- How the receive side changed since the last operation (R20, R45, N11; log 10): more bytes behind the unread ones,
or any other contents (bytes dropped, a new handle's stream). -/
inductive RxChange where
  | arrive (bs : List Byte)
  | become (bs : List Byte)
  deriving DecidableEq, Repr

/-- One turn of the environment: what is put before the block and how the transport behaves meanwhile (log 2). -/
structure Turn where
  signal : Signal
  answers : Answers
  rx : RxChange
  deriving DecidableEq, Repr

/-- The block's registers (`di`, `ls`, `h`), the environment's histories and streams (R20), the response last
returned (R69), and the model's own `answers` and `script` (log 2). -/
structure State where
  di : DriveIntent
  ls : LastSent
  h : Bool
  txLog : List Byte
  echoLog : List Frame
  rx : List Byte
  answers : Answers
  resp : Option Response
  script : List Turn
  deriving DecidableEq, Repr

/-- Why the machine stops. -/
inductive Fault where
  /-- Raised by READ alone, when the transport never answers `RxReadExact`: the operation never ends (R205, U13).
  Safe: the block goes no further either (log 8). -/
  | readBlocked
  deriving DecidableEq, Repr

/-- Why an input has no meaning. -/
inductive Refusal where
  /-- Raised by an arm of exec whose instruction has no meaning yet; no arm is left that raises it. Safe. -/
  | notModelled (mnemonic : String)
  /-- Raised by step for a byte string on the model's own frame input that is none of the eight wire frames
  (R55; log 7). Safe: the block never emits such bytes. -/
  | noSuchFrame
  deriving DecidableEq, Repr

/-- The three outcomes of a step of this machine. -/
abbrev Result := Host.Outcome State Fault Refusal

/-- The state after reset (R21, R201). `ls.frame` is unspecified there and unread while `ls.valid` is false: zeros are
a DESIGN CHOICE (log 3). `rx`, `answers`, `resp` and `script` are not the block's: DESIGN CHOICE (log 4, 5, 6). -/
def State.reset : State where
  di := { f := false, b := false, l := false, r := false }
  ls := { valid := false, frame := #v[0, 0, 0, 0, 0] }
  h := false
  txLog := []
  echoLog := []
  rx := []
  answers := { isOpen := false, tx := .fault 0, rx := .fault 0 }
  resp := none
  script := []

end Sys2Proof.Machine
end

