-- ==== Sys2Proof/Machine/Operands.lean ====
section
/-! DEFINITION. Operand forms and the pure functions of the block: the Byte Codec (R80 to R82), the frames
(R100, R101, R52), the status numbers (R70). -/

namespace Sys2Proof.Machine

/-- The number of a status (R70). -/
def statusCode : Status → BitVec 3
  | .ok => 0
  | .rangeError => 1
  | .formatError => 2
  | .connectionLost => 3
  | .illegalCommand => 4

/-- `w` in bytes (R67). -/
def widthBytes : Width → Nat
  | .one => 1
  | .two => 2

/-- `2^(8w)` (R81). -/
def widthModulus : Width → Nat
  | .one => 256
  | .two => 65536

/-- The type token `S16` (R67). -/
def typeS16 : IntType := { w := .two, s := .signed }

/-- The lower end of `rangeOf(w, s)` (R80). -/
def rangeLo : IntType → Int
  | ⟨.one, .unsigned⟩ => 0
  | ⟨.one, .signed⟩ => -128
  | ⟨.two, .unsigned⟩ => 0
  | ⟨.two, .signed⟩ => -32768

/-- The upper end of `rangeOf(w, s)` (R80). -/
def rangeHi : IntType → Int
  | ⟨.one, .unsigned⟩ => 255
  | ⟨.one, .signed⟩ => 127
  | ⟨.two, .unsigned⟩ => 65535
  | ⟨.two, .signed⟩ => 32767

/-- Membership in `rangeOf(w, s)` (R80). -/
def inRange (t : IntType) (v : Int) : Bool := decide (rangeLo t ≤ v ∧ v ≤ rangeHi t)

/-- A 16-bit code as two bytes, the more significant first (R32). -/
def bigEndian (u : BitVec 16) : List Byte := [u.extractLsb' 8 8, u.extractLsb' 0 8]

/-- `encodeInt(v, w, s)` (R81): the residue of `v` modulo `2^(8w)`, high byte first. -/
def encodeInt (t : IntType) (v : Int) : Except Status (List Byte) :=
  if inRange t v then
    match t.w with
    | .one => .ok [BitVec.ofInt 8 v]
    | .two => .ok (bigEndian (BitVec.ofInt 16 v))
  else .error .rangeError

/-- The value of the `8w`-bit code `u` (R82): two's complement where the type is signed. -/
def codeValue (t : IntType) (u : Nat) : Int :=
  match t.s with
  | .unsigned => u
  | .signed => if widthModulus t.w / 2 ≤ u then (u : Int) - widthModulus t.w else u

/-- `decodeInt(bs, w, s)` (R82): the byte count must match the width exactly. -/
def decodeInt (t : IntType) (bs : List Byte) : Except Status Int :=
  match t.w, bs with
  | .one, [b0] => .ok (codeValue t b0.toNat)
  | .two, [b0, b1] => .ok (codeValue t (b0.toNat * 256 + b1.toNat))
  | _, _ => .error .formatError

/-- `frameOf(kind)` (R100). -/
def frameOf (c : Cfg) : Kind → Frame
  | .passive => [c.opPassive]
  | .safe => [c.opSafe]
  | .full => [c.opFull]
  | .clean => [c.opClean]
  | .dock => [c.opDock]
  | .reset => [c.opReset]
  | .beep => c.beep.toList

/-- The Drive frame of two 16-bit speed codes, right wheel first (R52). -/
def driveBytes (c : Cfg) (vr vl : BitVec 16) : Vector Byte 5 :=
  #v[c.opDrive, vr.extractLsb' 8 8, vr.extractLsb' 0 8, vl.extractLsb' 8 8, vl.extractLsb' 0 8]

/-- `encodeDrive(vr, vl)` (R101). -/
def encodeDrive (c : Cfg) (vr vl : Int) : Except Status (Vector Byte 5) :=
  match encodeInt typeS16 vr, encodeInt typeS16 vl with
  | .ok [rh, rl], .ok [lh, ll] => .ok #v[c.opDrive, rh, rl, lh, ll]
  | _, _ => .error .rangeError

/-- `vr` and `vl` read back from a Drive frame (R52). -/
def driveSpeeds (f : Vector Byte 5) : Int × Int :=
  ((f[1] ++ f[2] : BitVec 16).toInt, (f[3] ++ f[4] : BitVec 16).toInt)

/-- An integer operand: `sext_32` of its field (R68). -/
def operandValue (field : BitVec 32) : Int := field.toInt

/-- A frame in the seven bytes of `fbytes`, zeros behind it (R69). -/
def padFrame (f : Frame) : Vector Byte 7 := Vector.ofFn fun i => f.getD i 0

end Sys2Proof.Machine
end

