-- ==== Sys2Proof/WellFormed.lean ====
section
/-! DEFINITION. Which instructions have an encoding. -/

namespace Sys2Proof

/-- Every operand value of every format is legal (R59, R66) but for the byte count of DECINT, `n` of 0 to 4 (R61). -/
def Instr.wf : Instr → Bool
  | .decint bs _ => decide (bs.length ≤ 4)
  | _ => true

end Sys2Proof
end

