-- ==== Sys2Proof/Decode.lean ====
section
/-! DEFINITION. The decoder of command words (R57 to R67) and of wire frames (R50 to R54), the encoder, and the rows
of the opcode table. -/

namespace Sys2Proof

open Sys2Proof.Machine

/-- Why an input is not an instruction. The first three are the ways a command word is reserved (R65). -/
inductive DecodeError where
  /-- `OP` is none of the 23 codes of R64. -/
  | unknownOperation
  /-- A field that the format says is 0 is not 0. -/
  | mustBeZero
  /-- `OP` is DECINT's and `n` is 5, 6 or 7. -/
  | badCount
  /-- A byte string that is none of the eight wire frames (R55). -/
  | notAFrame
  /-- The reset input, which is no operation (R200). -/
  | resetInput
  deriving DecidableEq, Repr

/-- The three fields of a command word (R57). -/
structure Fields where
  op : BitVec 8
  a : BitVec 32
  b : BitVec 32
  deriving DecidableEq, Repr

/-- `OP` is bits 71:64, `A` bits 63:32, `B` bits 31:0 (R57). -/
def fieldsOf (w : CommandWord) : Fields :=
  { op := w.extractLsb' 64 8, a := w.extractLsb' 32 32, b := w.extractLsb' 0 32 }

/-- The word of three fields (R57). -/
def packFields (f : Fields) : CommandWord := f.op ++ f.a ++ f.b

/-! ## Operand fields -/

/-- `WS` is bit 0 and `SG` bit 1 of `B` (R67). -/
def typeOf (b : BitVec 32) : IntType where
  w := if b.getLsbD 0 then .two else .one
  s := if b.getLsbD 1 then .signed else .unsigned

/-- `WS` and `SG` in their places (R67). -/
def typeBits : IntType → BitVec 32
  | ⟨.one, .unsigned⟩ => 0
  | ⟨.two, .unsigned⟩ => 1
  | ⟨.one, .signed⟩ => 2
  | ⟨.two, .signed⟩ => 3

/-- The bytes of `A`, first byte uppermost (R61). -/
def bytesOfA (a : BitVec 32) : List Byte :=
  [a.extractLsb' 24 8, a.extractLsb' 16 8, a.extractLsb' 8 8, a.extractLsb' 0 8]

/-- Up to four bytes placed in `A`, first byte uppermost, every unnamed bit 0 (R61, R72). -/
def placeBytes (bs : List Byte) : BitVec 32 :=
  bs.getD 0 0 ++ bs.getD 1 0 ++ bs.getD 2 0 ++ bs.getD 3 0

/-! ## The formats -/

/-- Format N: `A = 0` and `B = 0` (R58). -/
def formatN (f : Fields) (i : Instr) : Except DecodeError Instr :=
  if f.a = 0 ∧ f.b = 0 then .ok i else .error .mustBeZero

/-- Format D: every bit pattern of `A` and `B` is legal (R59). -/
def formatD (f : Fields) (mk : BitVec 32 → BitVec 32 → Instr) : Except DecodeError Instr :=
  .ok (mk f.a f.b)

/-- Format K: `A = 0`, `sym` in `B[3:0]`, `B[31:4] = 0` (R62). -/
def formatK (f : Fields) (mk : BitVec 4 → Instr) : Except DecodeError Instr :=
  if f.a = 0 ∧ f.b.extractLsb' 4 28 = 0 then .ok (mk (f.b.extractLsb' 0 4)) else .error .mustBeZero

/-- Format R: `A = 0`, `B[31:2] = 0` (R63). -/
def formatR (f : Fields) : Except DecodeError Instr :=
  if f.a = 0 ∧ f.b.extractLsb' 2 30 = 0 then .ok (.read (typeOf f.b)) else .error .mustBeZero

/-- Format E: the value in `A`, `B[31:2] = 0` (R60). -/
def formatE (f : Fields) : Except DecodeError Instr :=
  if f.b.extractLsb' 2 30 = 0 then .ok (.encint f.a (typeOf f.b)) else .error .mustBeZero

/-- Format X: `n` in `B[4:2]`, `B[31:5] = 0`; only the first `n` bytes of `A` exist (R61). -/
def formatX (f : Fields) : Except DecodeError Instr :=
  if f.b.extractLsb' 5 27 = 0 then
    if (f.b.extractLsb' 2 3).toNat ≤ 4 then
      .ok (.decint ((bytesOfA f.a).take (f.b.extractLsb' 2 3).toNat) (typeOf f.b))
    else .error .badCount
  else .error .mustBeZero

/-- The operation code map (R64). -/
def decodeFields (f : Fields) : Except DecodeError Instr :=
  match f.op.toNat with
  | 0x01 => formatN f .attach
  | 0x02 => formatN f .detach
  | 0x10 => formatN f .encPassive
  | 0x11 => formatN f .encSafe
  | 0x12 => formatN f .encFull
  | 0x13 => formatN f .encClean
  | 0x14 => formatN f .encDock
  | 0x15 => formatN f .encReset
  | 0x16 => formatN f .encBeep
  | 0x17 => formatD f .encDrive
  | 0x20 => formatN f .txPassive
  | 0x21 => formatN f .txSafe
  | 0x22 => formatN f .txFull
  | 0x23 => formatN f .txClean
  | 0x24 => formatN f .txDock
  | 0x25 => formatN f .txReset
  | 0x26 => formatN f .txBeep
  | 0x27 => formatD f .txDrive
  | 0x30 => formatK f .keyPress
  | 0x31 => formatK f .keyRelease
  | 0x40 => formatR f
  | 0x50 => formatE f
  | 0x51 => formatX f
  | _ => .error .unknownOperation

/-- The decoder of command words, total on all 72-bit values (R65). -/
def decodeCommand (w : CommandWord) : Except DecodeError Instr := decodeFields (fieldsOf w)

/-! ## Wire frames -/

/-- The frame at the head of a byte sequence, told by its first byte (R54), and the bytes behind it. -/
def decodeFrame (bs : Frame) : Except DecodeError (Instr × Frame) :=
  match bs with
  | [] => .error .notAFrame
  | b :: more =>
    if b = cfg.opPassive then .ok (.wirePassive, more)
    else if b = cfg.opSafe then .ok (.wireSafe, more)
    else if b = cfg.opFull then .ok (.wireFull, more)
    else if b = cfg.opClean then .ok (.wireClean, more)
    else if b = cfg.opDock then .ok (.wireDock, more)
    else if b = cfg.opReset then .ok (.wireReset, more)
    else if b = cfg.opDrive then
      match more with
      | rh :: rl :: lh :: ll :: rest => .ok (.wireDrive (rh ++ rl) (lh ++ ll), rest)
      | _ => .error .notAFrame
    else if bs.take 7 = cfg.beep.toList then .ok (.wireBeep, bs.drop 7)
    else .error .notAFrame

/-- One whole frame and nothing behind it (R50). -/
def decodeWhole (bs : Frame) : Except DecodeError Instr :=
  match decodeFrame bs with
  | .ok (i, []) => .ok i
  | _ => .error .notAFrame

/-- A log of TX cut into its frames from the first bytes alone (R54). The first argument bounds the number of frames. -/
def cutFrames : Nat → Frame → Except DecodeError (List Instr)
  | _, [] => .ok []
  | 0, _ :: _ => .error .notAFrame
  | n + 1, b :: bs =>
    match decodeFrame (b :: bs) with
    | .error e => .error e
    | .ok (i, rest) =>
      match cutFrames n rest with
      | .ok is => .ok (i :: is)
      | .error e => .error e

/-- What is put before the block, decoded. -/
def decode : Signal → Except DecodeError Instr
  | .command w => decodeCommand w
  | .frame bs => decodeWhole bs
  | .reset => .error .resetInput

/-! ## The encoder -/

/-- A command word without operands (R58). -/
def wordN (op : BitVec 8) : Signal := .command (packFields { op := op, a := 0, b := 0 })

/-- The signal that presents an instruction: its command word, every unnamed bit 0 (R72), or its wire frame (R51). -/
def encode : Instr → Signal
  | .attach => wordN 0x01
  | .detach => wordN 0x02
  | .encPassive => wordN 0x10
  | .encSafe => wordN 0x11
  | .encFull => wordN 0x12
  | .encClean => wordN 0x13
  | .encDock => wordN 0x14
  | .encReset => wordN 0x15
  | .encBeep => wordN 0x16
  | .encDrive vr vl => .command (packFields { op := 0x17, a := vr, b := vl })
  | .txPassive => wordN 0x20
  | .txSafe => wordN 0x21
  | .txFull => wordN 0x22
  | .txClean => wordN 0x23
  | .txDock => wordN 0x24
  | .txReset => wordN 0x25
  | .txBeep => wordN 0x26
  | .txDrive vr vl => .command (packFields { op := 0x27, a := vr, b := vl })
  | .keyPress sym => .command (packFields { op := 0x30, a := 0, b := sym.setWidth 32 })
  | .keyRelease sym => .command (packFields { op := 0x31, a := 0, b := sym.setWidth 32 })
  | .read t => .command (packFields { op := 0x40, a := 0, b := typeBits t })
  | .encint value t => .command (packFields { op := 0x50, a := value, b := typeBits t })
  | .decint bs t =>
    .command (packFields { op := 0x51, a := placeBytes bs, b := BitVec.ofNat 32 (4 * bs.length) + typeBits t })
  | .wirePassive => .frame (frameOf cfg .passive)
  | .wireSafe => .frame (frameOf cfg .safe)
  | .wireFull => .frame (frameOf cfg .full)
  | .wireClean => .frame (frameOf cfg .clean)
  | .wireDock => .frame (frameOf cfg .dock)
  | .wireReset => .frame (frameOf cfg .reset)
  | .wireBeep => .frame (frameOf cfg .beep)
  | .wireDrive vr vl => .frame (driveBytes cfg vr vl).toList

/-! ## The opcode table -/

/-- A row of spec/opcode_table.json: `width_bits`, `match` and `mask`. -/
structure Row where
  width : Nat
  bits : Nat
  mask : Nat
  deriving DecidableEq, Repr

/-- A row whose every bit of `OP`, `A` and `B` is fixed. -/
def rowN (bits : Nat) : Row := { width := 72, bits := bits, mask := 0xFFFFFFFFFFFFFFFFFF }

/-- The row of spec/opcode_table.json each instruction stands in, copied from the table. -/
def tableRow : Instr → Row
  | .attach => rowN 0x010000000000000000
  | .detach => rowN 0x020000000000000000
  | .encPassive => rowN 0x100000000000000000
  | .encSafe => rowN 0x110000000000000000
  | .encFull => rowN 0x120000000000000000
  | .encClean => rowN 0x130000000000000000
  | .encDock => rowN 0x140000000000000000
  | .encReset => rowN 0x150000000000000000
  | .encBeep => rowN 0x160000000000000000
  | .encDrive _ _ => { width := 72, bits := 0x170000000000000000, mask := 0xFF0000000000000000 }
  | .txPassive => rowN 0x200000000000000000
  | .txSafe => rowN 0x210000000000000000
  | .txFull => rowN 0x220000000000000000
  | .txClean => rowN 0x230000000000000000
  | .txDock => rowN 0x240000000000000000
  | .txReset => rowN 0x250000000000000000
  | .txBeep => rowN 0x260000000000000000
  | .txDrive _ _ => { width := 72, bits := 0x270000000000000000, mask := 0xFF0000000000000000 }
  | .keyPress _ => { width := 72, bits := 0x300000000000000000, mask := 0xFFFFFFFFFFFFFFFFF0 }
  | .keyRelease _ => { width := 72, bits := 0x310000000000000000, mask := 0xFFFFFFFFFFFFFFFFF0 }
  | .read _ => { width := 72, bits := 0x400000000000000000, mask := 0xFFFFFFFFFFFFFFFFFC }
  | .encint _ _ => { width := 72, bits := 0x500000000000000000, mask := 0xFF00000000FFFFFFFC }
  | .decint _ _ => { width := 72, bits := 0x510000000000000000, mask := 0xFF00000000FFFFFFE0 }
  | .wirePassive => { width := 8, bits := 0x80, mask := 0xFF }
  | .wireSafe => { width := 8, bits := 0x83, mask := 0xFF }
  | .wireFull => { width := 8, bits := 0x84, mask := 0xFF }
  | .wireClean => { width := 8, bits := 0x87, mask := 0xFF }
  | .wireDock => { width := 8, bits := 0x8F, mask := 0xFF }
  | .wireReset => { width := 8, bits := 0x07, mask := 0xFF }
  | .wireBeep => { width := 56, bits := 0x8C030140108D03, mask := 0xFFFFFFFFFFFFFF }
  | .wireDrive _ _ => { width := 40, bits := 0x9100000000, mask := 0xFF00000000 }

/-- A 72-bit word selects a row iff `(w AND mask) = match` (INDEX, How to read the spec). -/
def rowSelects (r : Row) (w : CommandWord) : Bool :=
  decide (r.width = 72 ∧ w &&& BitVec.ofNat 72 r.mask = BitVec.ofNat 72 r.bits)

/-- The extra constraint of DECINT's row, `n = B[4:2] <= 4`; no other row has one. -/
def rowConstraint (i : Instr) (w : CommandWord) : Bool :=
  match i with
  | .decint _ _ => decide ((w.extractLsb' 2 3).toNat ≤ 4)
  | _ => true

/-- A frame as one number, byte 0 most significant (R52). -/
def frameNumber (bs : Frame) : Nat := bs.foldl (fun n b => n * 256 + b.toNat) 0

/-- The bytes of a number of `n` bytes, most significant first: the reverse of `frameNumber`. -/
def numberBytes : Nat → Nat → Frame
  | 0, _ => []
  | n + 1, w => BitVec.ofNat 8 (w / 256 ^ n) :: numberBytes n w

/-- The signal that a table word stands for: 72 bits are a command word; fewer are a wire frame whose byte 0 is most
significant, as the table's `match` numbers are written (log 16). -/
def tableSignal (nbits w : Nat) : Signal :=
  if nbits = 72 then .command (BitVec.ofNat 72 w) else .frame (numberBytes (nbits / 8) w)

/-- What the decoder reads from a word numbered as the opcode table numbers it. -/
def decodeTableWord (nbits w : Nat) : Option Instr :=
  match decode (tableSignal nbits w) with
  | .ok i => some i
  | .error _ => none

end Sys2Proof
end

