-- ==== Sys2Proof/Machine/Flags.lean ====
section
/-! DEFINITION. The flags of `DI` (R10), the key symbols that name them (R66), and the drive frame they give
(R140 to R142). -/

namespace Sys2Proof.Machine

/-- The four direction keys (R66). -/
inductive Direction where
  | forward
  | left
  | backward
  | right
  deriving DecidableEq, Repr

/-- The direction a key symbol code names, if it is one of 0 to 3 (R66). -/
def directionOf (sym : BitVec 4) : Option Direction :=
  match sym.toNat with
  | 0 => some .forward
  | 1 => some .left
  | 2 => some .backward
  | 3 => some .right
  | _ => none

/-- `flag(sym)` read (R144). -/
def getFlag (di : DriveIntent) : Direction → Bool
  | .forward => di.f
  | .left => di.l
  | .backward => di.b
  | .right => di.r

/-- `flag(sym) <- v` (R144, R145): the other three flags stay (R146). -/
def setFlag (di : DriveIntent) (d : Direction) (v : Bool) : DriveIntent :=
  match d with
  | .forward => { di with f := v }
  | .left => { di with l := v }
  | .backward => { di with b := v }
  | .right => { di with r := v }

/-- `DI` as the 4-bit field `di` of a response: bit 0 F, bit 1 B, bit 2 L, bit 3 R (R10, R69). -/
def intentBits (di : DriveIntent) : BitVec 4 :=
  BitVec.ofBool di.r ++ BitVec.ofBool di.l ++ BitVec.ofBool di.b ++ BitVec.ofBool di.f

/-- `velocity` of `driveVector(di)` (R140). -/
def driveVelocity (c : Cfg) (di : DriveIntent) : Int :=
  (if di.f then (c.cv : Int) else 0) + (if di.b then -(c.cv : Int) else 0)

/-- `rotation` of `driveVector(di)` (R140). -/
def driveRotation (c : Cfg) (di : DriveIntent) : Int :=
  (if di.l then (c.cr : Int) else 0) + (if di.r then -(c.cr : Int) else 0)

/-- `clamp16(x)` (R141). -/
def clamp16 (x : Int) : Int :=
  if x < -32768 then -32768 else if 32767 < x then 32767 else x

/-- `wheelSpeeds(velocity, rotation) = (vr, vl)` (R141). The division is exact, since `CR` is even (R3). -/
def wheelSpeeds (v r : Int) : Int × Int := (clamp16 (v + r / 2), clamp16 (v - r / 2))

/-- `driveFrame(di)` (R142). -/
def driveFrame (c : Cfg) (di : DriveIntent) : Except Status (Vector Byte 5) :=
  encodeDrive c (wheelSpeeds (driveVelocity c di) (driveRotation c di)).1 (wheelSpeeds (driveVelocity c di) (driveRotation c di)).2

end Sys2Proof.Machine
end

