-- ==== Sys2Proof/Machine/Ops.lean ====
section
/-! DEFINITION. The named operations over the block's registers and streams: the transport primitives (R34 to R36),
the checked transmit (R46), the response and the raising of a status (R69, R187), and what the operations share. -/

namespace Sys2Proof.Machine

/-! ## Writes of one piece of state -/

/-- `DI <- di` (R10). -/
def State.setDi (s : State) (di : DriveIntent) : State := { s with di := di }

/-- `LS.valid <- 1; LS.frame <- f` (R13). -/
def State.recordSent (s : State) (f : Vector Byte 5) : State := { s with ls := { valid := true, frame := f } }

/-- `LS.valid <- 0` (R13); `LS.frame` is not written (R12, U7; log 9). -/
def State.forgetSent (s : State) : State := { s with ls := { valid := false, frame := s.ls.frame } }

/-- `H <- v` (R15). -/
def State.setHandle (s : State) (v : Bool) : State := { s with h := v }

/-- `TXLOG <- TXLOG ++ bs` (R34). -/
def State.appendTx (s : State) (bs : List Byte) : State := { s with txLog := s.txLog ++ bs }

/-- `Echo(f)`: `ECHOLOG <- ECHOLOG ++ [f]` (R71). -/
def State.appendEcho (s : State) (f : Frame) : State := { s with echoLog := s.echoLog ++ [f] }

/-- The receive side after a read (R35). -/
def State.setRx (s : State) (bs : List Byte) : State := { s with rx := bs }

/-- The response returned to the host (R69). -/
def State.setResp (s : State) (r : Response) : State := { s with resp := some r }

/-! ## Responses and failures -/

/-- The response with the fields every operation fills, `di` and `hv`, and every other field 0 (R69). -/
def blankResponse (st : Status) (s : State) : Response :=
  { status := st, sent := false, flen := 0, fbytes := padFrame [], value := 0, vw := false, vs := false,
    di := intentBits s.di, hv := s.h }

/-- `raise e` (R187): the operation ends with status `e`; register writes made before stay. -/
def raise (e : Status) (s : State) : Result := .next (s.setResp (blankResponse e s))

/-- `respond()` and `respond(sent = 0)` (R69). -/
def respondNone (s : State) : Result := .next (s.setResp (blankResponse .ok s))

/-- The response that carries a frame (R69). -/
def frameResponse (sent : Bool) (f : Frame) (s : State) : Response :=
  { blankResponse .ok s with sent := sent, flen := BitVec.ofNat 3 f.length, fbytes := padFrame f }

/-- `respond(sent, flen = len(f), fbytes = f)` (R69). -/
def respondFrame (sent : Bool) (f : Frame) (s : State) : Result := .next (s.setResp (frameResponse sent f s))

/-- The response that carries a decoded integer and its tag (R69, R132). -/
def valueResponse (t : IntType) (v : Int) (s : State) : Response :=
  { blankResponse .ok s with
    value := BitVec.ofInt 32 v, vw := decide (t.w = .two), vs := decide (t.s = .signed) }

/-- `respond(value = v, vw = WS, vs = SG)` (R69). -/
def respondValue (t : IntType) (v : Int) (s : State) : Result := .next (s.setResp (valueResponse t v s))

/-! ## The transport primitives -/

/-- `IsOpen()` (R36). -/
def isOpen (s : State) : Bool := s.answers.isOpen

/-- `TxWrite(f)` (R34): whether the transport took the whole frame, and the state after. A fault leaves the first
`k` bytes on the wire. -/
def txWrite (f : Frame) (s : State) : Bool × State :=
  match s.answers.tx with
  | .ok => (true, s.appendTx f)
  | .fault k => (false, s.appendTx (f.take k))

/-- The three answers of `RxReadExact` (R35), and no answer (R205). -/
inductive RxResult where
  | bytes (bs : List Byte) (s : State)
  | short (s : State)
  | fault (s : State)
  | never
  deriving DecidableEq, Repr

/-- `RxReadExact(n)` (R35): the bytes taken leave the receive side; those of a short read are thrown away. -/
def rxReadExact (n : Nat) (s : State) : RxResult :=
  match s.answers.rx with
  | .serve =>
    if n ≤ s.rx.length then .bytes (s.rx.take n) (s.setRx (s.rx.drop n)) else .short (s.setRx [])
  | .short k => .short (s.setRx (s.rx.drop (min k (n - 1))))
  | .fault k => .fault (s.setRx (s.rx.drop k))
  | .never => .never

/-- How `send` ends: the whole frame was taken, or ConnectionLost is to be raised. -/
inductive Sent where
  | ok (s : State)
  | lost (s : State)
  deriving DecidableEq, Repr

/-- `send(f)` (R46). -/
def send (f : Frame) (s : State) : Sent :=
  if s.h then
    if isOpen s then
      match txWrite f s with
      | (true, s') => .ok (s'.appendEcho f)
      | (false, s') => .lost (s'.setHandle false)
    else .lost (s.setHandle false)
  else .lost s

/-! ## What the operations share -/

/-- ENC.* and ENCINT after their encode: respond with the bytes, or raise (R84, R103 to R110). -/
def answerBytes (r : Except Status Frame) (s : State) : Result :=
  match r with
  | .ok f => respondFrame false f s
  | .error e => raise e s

/-- `send(f); respond(sent = 1, fbytes = f)` (R111 to R117). -/
def transmit (f : Frame) (s : State) : Result :=
  match send f s with
  | .ok s' => respondFrame true f s'
  | .lost s' => raise .connectionLost s'

/-- The transmission of a Drive frame: `send(f)`, then `LS.valid <- 1; LS.frame <- f` (R13, R118, R143). -/
def transmitDrive (f : Vector Byte 5) (s : State) : Result :=
  match send f.toList s with
  | .ok s' => respondFrame true f.toList (s'.recordSent f)
  | .lost s' => raise .connectionLost s'

/-- ENC.DRIVE and TX.DRIVE's encode: `encodeDrive` of the two operands (R110, R118). -/
def encodeOperands (vr vl : BitVec 32) : Except Status (Vector Byte 5) :=
  encodeDrive cfg (operandValue vr) (operandValue vl)

/-- `driveUpdate()` (R143). -/
def driveUpdate (s : State) : Result :=
  match driveFrame cfg s.di with
  | .error e => raise e s
  | .ok f => if s.ls.valid = true ∧ s.ls.frame = f then respondNone s else transmitDrive f s

/-- A direction key event (R144, R145): the flag is written first; the update runs only if it changed. -/
def directionEvent (d : Direction) (v : Bool) (s : State) : Result :=
  if getFlag s.di d = v then respondNone (s.setDi (setFlag s.di d v))
  else driveUpdate (s.setDi (setFlag s.di d v))

/-! ## The environment's turn -/

/-- How the receive side changed between two operations (R20, R45; log 10). -/
def applyRxChange : RxChange → List Byte → List Byte
  | .arrive bs, rx => rx ++ bs
  | .become bs, _ => bs

/-- The oldest turn is taken: the transport's answers hold for the operation it presents (log 2). -/
def takeTurn (t : Turn) (rest : List Turn) (s : State) : State :=
  { s with rx := applyRxChange t.rx s.rx, answers := t.answers, script := rest }

/-- Reset (R200, R201): the block's registers and the histories as after reset; what the environment holds stays
its own (log 14). -/
def powerOn (s : State) : State :=
  { State.reset with rx := s.rx, answers := s.answers, script := s.script }

/-- What an input does that decodes to no instruction: a reserved command word raises IllegalCommand (R65, R184),
reset resets (R200), a byte string that is no frame is refused (log 7). -/
def undecoded (e : DecodeError) (s : State) : Result :=
  match e with
  | .unknownOperation => raise .illegalCommand s
  | .mustBeZero => raise .illegalCommand s
  | .badCount => raise .illegalCommand s
  | .notAFrame => .refused .noSuchFrame
  | .resetInput => .next (powerOn s)

/-- The turn that presents a word numbered as the opcode table numbers it, the transport answering as it does now. -/
def tableTurn (s : State) (nbits w : Nat) : Turn :=
  { signal := tableSignal nbits w, answers := s.answers, rx := .arrive [] }

/-- That turn put before all others. -/
def presentTableWord (s : State) (nbits w : Nat) : State :=
  { s with script := tableTurn s nbits w :: s.script }

end Sys2Proof.Machine
end

