-- ==== Sys2Proof/Machine/Codec.lean ====
section
/-! DEFINITION. The operations of the Byte Codec: ENCINT and DECINT. -/

namespace Sys2Proof.Machine

/-- `ENCINT value, type` (R84). -/
def execEncint (value : BitVec 32) (t : IntType) (s : State) : Result :=
  answerBytes (encodeInt t (operandValue value)) s

/-- `DECINT [bytes], type` (R85). A FormatError here leaves `H` as it is (R15). -/
def execDecint (bs : List Byte) (t : IntType) (s : State) : Result :=
  match decodeInt t bs with
  | .ok v => respondValue t v s
  | .error e => raise e s

end Sys2Proof.Machine
end

