-- ==== Sys2Proof/Machine/Encoder.lean ====
section
/-! DEFINITION. The operations of the Command Encoder: ENC.* (encode only) and TX.* (encode, then send). -/

namespace Sys2Proof.Machine

/-- `ENC.PASSIVE` (R103). -/
def execEncPassive (s : State) : Result := answerBytes (.ok (frameOf cfg .passive)) s

/-- `ENC.SAFE` (R104). -/
def execEncSafe (s : State) : Result := answerBytes (.ok (frameOf cfg .safe)) s

/-- `ENC.FULL` (R105). -/
def execEncFull (s : State) : Result := answerBytes (.ok (frameOf cfg .full)) s

/-- `ENC.CLEAN` (R106). -/
def execEncClean (s : State) : Result := answerBytes (.ok (frameOf cfg .clean)) s

/-- `ENC.DOCK` (R107). -/
def execEncDock (s : State) : Result := answerBytes (.ok (frameOf cfg .dock)) s

/-- `ENC.RESET` (R108). -/
def execEncReset (s : State) : Result := answerBytes (.ok (frameOf cfg .reset)) s

/-- `ENC.BEEP` (R109). -/
def execEncBeep (s : State) : Result := answerBytes (.ok (frameOf cfg .beep)) s

/-- `ENC.DRIVE vr, vl` (R110): no clamping, no transmission. -/
def execEncDrive (vr vl : BitVec 32) (s : State) : Result :=
  match encodeOperands vr vl with
  | .ok f => answerBytes (.ok f.toList) s
  | .error e => answerBytes (.error e) s

/-- `TX.PASSIVE` (R111). -/
def execTxPassive (s : State) : Result := transmit (frameOf cfg .passive) s

/-- `TX.SAFE` (R112). -/
def execTxSafe (s : State) : Result := transmit (frameOf cfg .safe) s

/-- `TX.FULL` (R113). -/
def execTxFull (s : State) : Result := transmit (frameOf cfg .full) s

/-- `TX.CLEAN` (R114). -/
def execTxClean (s : State) : Result := transmit (frameOf cfg .clean) s

/-- `TX.DOCK` (R115). -/
def execTxDock (s : State) : Result := transmit (frameOf cfg .dock) s

/-- `TX.RESET` (R116). -/
def execTxReset (s : State) : Result := transmit (frameOf cfg .reset) s

/-- `TX.BEEP` (R117). -/
def execTxBeep (s : State) : Result := transmit (frameOf cfg .beep) s

/-- `TX.DRIVE vr, vl` (R118): the encode comes first, so RangeError wins over ConnectionLost (R186); no duplicate
suppression (D9). -/
def execTxDrive (vr vl : BitVec 32) (s : State) : Result :=
  match encodeOperands vr vl with
  | .ok f => transmitDrive f s
  | .error e => raise e s

end Sys2Proof.Machine
end

