-- ==== Sys2Proof/Machine/Lifecycle.lean ====
section
/-! DEFINITION. The handle lifecycle: ATTACH and DETACH. -/

namespace Sys2Proof.Machine

/-- `ATTACH` (R171): `DI` is not written, `IsOpen()` is not sampled, nothing is sent. -/
def execAttach (s : State) : Result := respondNone (s.forgetSent.setHandle true)

/-- `DETACH` (R172): `DI` is not written, nothing is sent. -/
def execDetach (s : State) : Result := respondNone ((s.setHandle false).forgetSent)

end Sys2Proof.Machine
end

