-- ==== Sys2Proof/Machine/Sensor.lean ====
section
/-! DEFINITION. The operation of the Sensor Decoder: READ. -/

namespace Sys2Proof.Machine

/-- `READ type` (R130, R131): either failure of the read invalidates the handle. -/
def execRead (t : IntType) (s : State) : Result :=
  if s.h then
    if isOpen s then
      match rxReadExact (widthBytes t.w) s with
      | .fault s' => raise .connectionLost (s'.setHandle false)
      | .short s' => raise .formatError (s'.setHandle false)
      | .bytes bs s' =>
        match decodeInt t bs with
        | .ok v => respondValue t v s'
        | .error e => raise e s'
      | .never => .fault .readBlocked
    else raise .connectionLost (s.setHandle false)
  else raise .connectionLost s

end Sys2Proof.Machine
end

