-- ==== Sys2Proof/Machine/Tracker.lean ====
section
/-! DEFINITION. The operations of the Drive Intent Tracker: KEY.PRESS and KEY.RELEASE. -/

namespace Sys2Proof.Machine

/-- `KEY.PRESS sym` (R144): a direction key sets its flag, a discrete key has the semantics of its TX operation, an
unbound key does nothing. -/
def execKeyPress (sym : BitVec 4) (s : State) : Result :=
  match directionOf sym with
  | some d => directionEvent d true s
  | none =>
    match cfg.keymap sym with
    | some kind => transmit (frameOf cfg kind) s
    | none => respondNone s

/-- `KEY.RELEASE sym` (R145): a direction key clears its flag, any other key does nothing. -/
def execKeyRelease (sym : BitVec 4) (s : State) : Result :=
  match directionOf sym with
  | some d => directionEvent d false s
  | none => respondNone s

end Sys2Proof.Machine
end

