-- ==== Sys2Proof/Machine/Wire.lean ====
section
/-! DEFINITION. The wire-frame rows of the opcode table: the transmission of that frame (DESIGN CHOICE, log 7), which
is what every operation that produces the frame on TX does after its encode. -/

namespace Sys2Proof.Machine

/-- `WIRE.PASSIVE` (R51; log 7). -/
def execWirePassive (s : State) : Result := transmit (frameOf cfg .passive) s

/-- `WIRE.SAFE` (R51; log 7). -/
def execWireSafe (s : State) : Result := transmit (frameOf cfg .safe) s

/-- `WIRE.FULL` (R51; log 7). -/
def execWireFull (s : State) : Result := transmit (frameOf cfg .full) s

/-- `WIRE.CLEAN` (R51; log 7). -/
def execWireClean (s : State) : Result := transmit (frameOf cfg .clean) s

/-- `WIRE.DOCK` (R51; log 7). -/
def execWireDock (s : State) : Result := transmit (frameOf cfg .dock) s

/-- `WIRE.RESET` (R51; log 7). -/
def execWireReset (s : State) : Result := transmit (frameOf cfg .reset) s

/-- `WIRE.BEEP` (R53; log 7). -/
def execWireBeep (s : State) : Result := transmit (frameOf cfg .beep) s

/-- `WIRE.DRIVE` (R52; log 7). A Drive frame that is transmitted is recorded in `LS` (R12, R13). -/
def execWireDrive (vr vl : BitVec 16) (s : State) : Result := transmitDrive (driveBytes cfg vr vl) s

end Sys2Proof.Machine
end

