-- ==== Sys2Proof/Machine/Dispatch.lean ====
section
/-! DEFINITION. One arm per instruction. -/

namespace Sys2Proof.Machine

def exec (i : Instr) (s : State) : Host.Outcome State Fault Refusal :=
  match i with
  | .attach => Sys2Proof.Machine.execAttach s
  | .detach => Sys2Proof.Machine.execDetach s
  | .encPassive => Sys2Proof.Machine.execEncPassive s
  | .encSafe => Sys2Proof.Machine.execEncSafe s
  | .encFull => Sys2Proof.Machine.execEncFull s
  | .encClean => Sys2Proof.Machine.execEncClean s
  | .encDock => Sys2Proof.Machine.execEncDock s
  | .encReset => Sys2Proof.Machine.execEncReset s
  | .encBeep => Sys2Proof.Machine.execEncBeep s
  | .encDrive vr vl => Sys2Proof.Machine.execEncDrive vr vl s
  | .txPassive => Sys2Proof.Machine.execTxPassive s
  | .txSafe => Sys2Proof.Machine.execTxSafe s
  | .txFull => Sys2Proof.Machine.execTxFull s
  | .txClean => Sys2Proof.Machine.execTxClean s
  | .txDock => Sys2Proof.Machine.execTxDock s
  | .txReset => Sys2Proof.Machine.execTxReset s
  | .txBeep => Sys2Proof.Machine.execTxBeep s
  | .txDrive vr vl => Sys2Proof.Machine.execTxDrive vr vl s
  | .keyPress sym => Sys2Proof.Machine.execKeyPress sym s
  | .keyRelease sym => Sys2Proof.Machine.execKeyRelease sym s
  | .read t => Sys2Proof.Machine.execRead t s
  | .encint value t => Sys2Proof.Machine.execEncint value t s
  | .decint bs t => Sys2Proof.Machine.execDecint bs t s
  | .wirePassive => Sys2Proof.Machine.execWirePassive s
  | .wireSafe => Sys2Proof.Machine.execWireSafe s
  | .wireFull => Sys2Proof.Machine.execWireFull s
  | .wireClean => Sys2Proof.Machine.execWireClean s
  | .wireDock => Sys2Proof.Machine.execWireDock s
  | .wireReset => Sys2Proof.Machine.execWireReset s
  | .wireBeep => Sys2Proof.Machine.execWireBeep s
  | .wireDrive vr vl => Sys2Proof.Machine.execWireDrive vr vl s

end Sys2Proof.Machine
end

