-- ==== Sys2Proof/Machine/Step.lean ====
section
/-! DEFINITION. One step: the block takes the oldest turn of the environment and performs the one operation it
presents (R1); with no turn left it idles (R196). -/

namespace Sys2Proof.Machine

def step (s : State) : Host.Outcome State Fault Refusal :=
  match s.script with
  | [] => .next s
  | t :: rest =>
    match decode t.signal with
    | .ok i => exec i (takeTurn t rest s)
    | .error e => undecoded e (takeTurn t rest s)

/-- The host presents the word as its next one (log 6). -/
def State.withFetchWord (s : State) (nbits w : Nat) : State := presentTableWord s nbits w

end Sys2Proof.Machine
end

