-- ==== Sys2Proof/Machine/Assembly.lean ====
section
/-! DEFINITION. The assembler of R72 and R73: one operation a line, `MNEMONIC operands`, comments after a semicolon.
The block does not see text; this is how the spec's test programs are written. -/

namespace Sys2Proof.Machine

/-- The pieces of a line: a run of other characters, or one of the three separators. -/
inductive Token where
  | word (cs : List Char)
  | comma
  | openBracket
  | closeBracket
  deriving DecidableEq, Repr

/-- A finished run of characters as a token, if it is not empty. -/
def flushWord (run : List Char) : List Token := if run.isEmpty then [] else [.word run.reverse]

/-- The tokens of a line; `run` is the run of characters read so far, reversed. A semicolon ends the line (R72). -/
def tokensFrom (run : List Char) : List Char → List Token
  | [] => flushWord run
  | c :: cs =>
    if c = ';' then flushWord run
    else if c = ' ' ∨ c = '\t' ∨ c = '\r' then flushWord run ++ tokensFrom [] cs
    else if c = ',' then flushWord run ++ .comma :: tokensFrom [] cs
    else if c = '[' then flushWord run ++ .openBracket :: tokensFrom [] cs
    else if c = ']' then flushWord run ++ .closeBracket :: tokensFrom [] cs
    else tokensFrom (c :: run) cs

/-- The value of a digit in a base up to 16. -/
def digitValue (base : Nat) (c : Char) : Option Nat :=
  let n := c.toNat
  let v := if 48 ≤ n ∧ n ≤ 57 then n - 48 else if 65 ≤ n ∧ n ≤ 70 then n - 55
    else if 97 ≤ n ∧ n ≤ 102 then n - 87 else 16
  if v < base then some v else none

/-- The number a digit string stands for, continuing from `acc`. -/
def numberFrom (base acc : Nat) : List Char → Option Nat
  | [] => some acc
  | c :: cs =>
    match digitValue base c with
    | some v => numberFrom base (acc * base + v) cs
    | none => none

/-- A digit string that is not empty. -/
def digits (base : Nat) (cs : List Char) : Option Nat := if cs.isEmpty then none else numberFrom base 0 cs

/-- An integer: decimal with an optional minus sign, or hexadecimal (R72). -/
def integer (cs : List Char) : Option Int :=
  match cs with
  | '-' :: ds => (digits 10 ds).map fun n => -(n : Int)
  | '0' :: 'x' :: ds => (digits 16 ds).map fun n => (n : Int)
  | ds => (digits 10 ds).map fun n => (n : Int)

/-- A 32-bit operand, an integer in `[-2^31, 2^31 - 1]` (R72). -/
def operand32 (cs : List Char) : Option (BitVec 32) :=
  match integer cs with
  | some v => if -2147483648 ≤ v ∧ v ≤ 2147483647 then some (BitVec.ofInt 32 v) else none
  | none => none

/-- A byte of DECINT, 0 to 255 (R72). -/
def operandByte (cs : List Char) : Option Byte :=
  match integer cs with
  | some v => if 0 ≤ v ∧ v ≤ 255 then some (BitVec.ofInt 8 v) else none
  | none => none

/-- The names and aliases of the key symbols with their codes (R66, R73). -/
def keyNames : List (String × BitVec 4) :=
  [("FORWARD", 0), ("W", 0), ("LEFT", 1), ("A", 1), ("BACKWARD", 2), ("S", 2), ("RIGHT", 3), ("D", 3)] ++
  [("K_PASSIVE", 4), ("K_SAFE", 5), ("K_FULL", 6), ("K_CLEAN", 7), ("K_DOCK", 8), ("K_RESET", 9), ("K_BEEP", 10),
    ("K_OTHER", 15)]

/-- A key symbol: a name or alias of R66, or a number 0 to 15 (R72). -/
def operandKey (cs : List Char) : Option (BitVec 4) :=
  match keyNames.find? fun p => decide (p.1.toList = cs) with
  | some p => some p.2
  | none =>
    match integer cs with
    | some v => if 0 ≤ v ∧ v ≤ 15 then some (BitVec.ofInt 4 v) else none
    | none => none

/-- A type token (R67). -/
def operandType (cs : List Char) : Option IntType :=
  if cs = "U8".toList then some ⟨.one, .unsigned⟩
  else if cs = "S8".toList then some ⟨.one, .signed⟩
  else if cs = "U16".toList then some ⟨.two, .unsigned⟩
  else if cs = "S16".toList then some ⟨.two, .signed⟩
  else none

/-- The bytes of a DECINT list after its opening bracket, and the tokens behind its closing one. -/
def byteList : List Token → Option (List Byte × List Token)
  | .closeBracket :: more => some ([], more)
  | .word cs :: .closeBracket :: more => (operandByte cs).map fun b => ([b], more)
  | .word cs :: .comma :: .word ds :: more =>
    match operandByte cs, byteList (.word ds :: more) with
    | some b, some (bs, rest) => some (b :: bs, rest)
    | _, _ => none
  | _ => none

/-- The operations without operands (R64). -/
def plainMnemonics : List (String × Instr) :=
  [("ATTACH", .attach), ("DETACH", .detach), ("ENC.PASSIVE", .encPassive), ("ENC.SAFE", .encSafe),
    ("ENC.FULL", .encFull), ("ENC.CLEAN", .encClean), ("ENC.DOCK", .encDock), ("ENC.RESET", .encReset),
    ("ENC.BEEP", .encBeep)] ++
  [("TX.PASSIVE", .txPassive), ("TX.SAFE", .txSafe), ("TX.FULL", .txFull), ("TX.CLEAN", .txClean),
    ("TX.DOCK", .txDock), ("TX.RESET", .txReset), ("TX.BEEP", .txBeep)]

/-- Two 32-bit operands (format D). -/
def assembleDrive (mk : BitVec 32 → BitVec 32 → Instr) (x y : List Char) : Option Instr :=
  match operand32 x, operand32 y with
  | some vr, some vl => some (mk vr vl)
  | _, _ => none

/-- The operation of a mnemonic and its operand tokens (R72). -/
def assembleTokens (m : List Char) (ops : List Token) : Option Instr :=
  match ops with
  | [] => (plainMnemonics.find? fun p => decide (p.1.toList = m)).map (·.2)
  | [.word x] =>
    if m = "KEY.PRESS".toList then (operandKey x).map .keyPress
    else if m = "KEY.RELEASE".toList then (operandKey x).map .keyRelease
    else if m = "READ".toList then (operandType x).map .read
    else none
  | [.word x, .comma, .word y] =>
    if m = "ENC.DRIVE".toList then assembleDrive .encDrive x y
    else if m = "TX.DRIVE".toList then assembleDrive .txDrive x y
    else if m = "ENCINT".toList then
      match operand32 x, operandType y with
      | some v, some t => some (.encint v t)
      | _, _ => none
    else none
  | .openBracket :: list =>
    if m = "DECINT".toList then
      match byteList list with
      | some (bs, [.comma, .word y]) =>
        if bs.length ≤ 4 then (operandType y).map (.decint bs) else none
      | _ => none
    else none
  | _ => none

/-- One line of R72's syntax as an operation; a line that is no operation gives none. -/
def assembleLine (line : String) : Option Instr :=
  match tokensFrom [] line.toList with
  | .word m :: ops => assembleTokens m ops
  | _ => none

/-- The command word a line assembles to (R72). -/
def assembleWord (line : String) : Option Signal := (assembleLine line).map encode

end Sys2Proof.Machine
end

