-- ==== Sys2Proof/Safety.lean ====
section
/-! DEFINITION. The terms in which claims are stated: the responses the spec writes out, what it is for an instruction
to transmit a frame, the reserved command words, and the invariants of the machine. -/

namespace Sys2Proof.Safety

open Sys2Proof.Machine

/-! ## Responses, written out (R69) -/

/-- A response that carries nothing but a status, `di` and `hv`. -/
def responseBlank (st : Status) (di : BitVec 4) (hv : Bool) : Response :=
  { status := st, sent := false, flen := 0, fbytes := #v[0, 0, 0, 0, 0, 0, 0], value := 0, vw := false, vs := false,
    di := di, hv := hv }

/-- An OK response that carries `n` bytes. -/
def responseFrame (sent : Bool) (n : BitVec 3) (bytes : Vector Byte 7) (di : BitVec 4) (hv : Bool) : Response :=
  { status := .ok, sent := sent, flen := n, fbytes := bytes, value := 0, vw := false, vs := false, di := di, hv := hv }

/-- An OK response that carries an integer and its tag. -/
def responseValue (v : BitVec 32) (vw vs : Bool) (di : BitVec 4) (hv : Bool) : Response :=
  { status := .ok, sent := false, flen := 0, fbytes := #v[0, 0, 0, 0, 0, 0, 0], value := v, vw := vw, vs := vs,
    di := di, hv := hv }

/-! ## Shapes of instructions -/

/-- The instructions that are wire frames and not operations of the host. -/
def isWire : Instr → Bool
  | .wirePassive => true
  | .wireSafe => true
  | .wireFull => true
  | .wireClean => true
  | .wireDock => true
  | .wireReset => true
  | .wireBeep => true
  | .wireDrive _ _ => true
  | _ => false

/-- The operations that reach no stream and no register: ENC.*, ENCINT, DECINT (R30, R102, R174). -/
def isPure : Instr → Bool
  | .encPassive => true
  | .encSafe => true
  | .encFull => true
  | .encClean => true
  | .encDock => true
  | .encReset => true
  | .encBeep => true
  | .encDrive _ _ => true
  | .encint _ _ => true
  | .decint _ _ => true
  | _ => false

/-- `answerBytes` with nothing but the response changed: `i` answers the frame `f`, of `n` bytes, in every state. -/
def AnswersFrame (i : Instr) (n : BitVec 3) (bytes : Vector Byte 7) : Prop :=
  ∀ s : State, exec i s = .next { s with resp := some (responseFrame false n bytes (intentBits s.di) s.h) }

/-- A transmission that meets an unusable handle, a dead transport or a failing write, told apart in the order the
block meets them (R46): nothing but `H`, TXLOG and the response changes. -/
def LosesConnection (f : Frame) (s : State) (out : Result) : Prop :=
  (s.h = false →
    out = .next { s with resp := some (responseBlank .connectionLost (intentBits s.di) false) }) ∧
  (s.h = true → s.answers.isOpen = false →
    out = .next { s with h := false, resp := some (responseBlank .connectionLost (intentBits s.di) false) }) ∧
  (∀ k, s.h = true → s.answers.isOpen = true → s.answers.tx = .fault k →
    out = .next { s with h := false, txLog := s.txLog ++ f.take k,
                         resp := some (responseBlank .connectionLost (intentBits s.di) false) })

/-- `i` transmits the frame `f` and writes no register but `H` on failure (R111 to R117): the four ways it can end. -/
def TransmitsFrame (i : Instr) (f : Frame) (n : BitVec 3) (bytes : Vector Byte 7) : Prop :=
  ∀ s : State,
    (s.h = true → s.answers.isOpen = true → s.answers.tx = .ok →
      exec i s = .next { s with txLog := s.txLog ++ f, echoLog := s.echoLog ++ [f],
                                resp := some (responseFrame true n bytes (intentBits s.di) true) }) ∧
    LosesConnection f s (exec i s)

/-- `out` is the transmission of the Drive frame `f` from `s`: TXLOG, ECHOLOG and `LS` on success, `H` on failure. -/
def TransmitsDrive (f : Vector Byte 5) (s : State) (out : Result) : Prop :=
  (s.h = true → s.answers.isOpen = true → s.answers.tx = .ok →
    out = .next { s with txLog := s.txLog ++ f.toList, echoLog := s.echoLog ++ [f.toList],
                         ls := { valid := true, frame := f },
                         resp := some (responseFrame true 5 #v[f[0], f[1], f[2], f[3], f[4], 0, 0]
                           (intentBits s.di) true) }) ∧
  LosesConnection f.toList s out

/-- `out` is a drive update from `s`, whose flags are already the new ones (R143). -/
def UpdatesDrive (s : State) (out : Result) : Prop :=
  ∃ f, driveFrame cfg s.di = .ok f ∧
    (s.ls.valid = true ∧ s.ls.frame = f →
      out = .next { s with resp := some (responseBlank .ok (intentBits s.di) s.h) }) ∧
    (¬ (s.ls.valid = true ∧ s.ls.frame = f) → TransmitsDrive f s out)

/-- The seven discrete transmissions: the operation, its command word, its frame, and the frame in `flen` and `fbytes`
(R111 to R117, R51). -/
structure DiscreteRow where
  instr : Instr
  word : CommandWord
  frame : Frame
  flen : BitVec 3
  fbytes : Vector Byte 7

/-- The rows of TX.PASSIVE to TX.BEEP. -/
def discreteTx : List DiscreteRow :=
  [⟨.txPassive, 0x200000000000000000, [128], 1, #v[128, 0, 0, 0, 0, 0, 0]⟩,
   ⟨.txSafe, 0x210000000000000000, [131], 1, #v[131, 0, 0, 0, 0, 0, 0]⟩,
   ⟨.txFull, 0x220000000000000000, [132], 1, #v[132, 0, 0, 0, 0, 0, 0]⟩,
   ⟨.txClean, 0x230000000000000000, [135], 1, #v[135, 0, 0, 0, 0, 0, 0]⟩,
   ⟨.txDock, 0x240000000000000000, [143], 1, #v[143, 0, 0, 0, 0, 0, 0]⟩,
   ⟨.txReset, 0x250000000000000000, [7], 1, #v[7, 0, 0, 0, 0, 0, 0]⟩,
   ⟨.txBeep, 0x260000000000000000, [140, 3, 1, 64, 16, 141, 3], 7, #v[140, 3, 1, 64, 16, 141, 3]⟩]

/-- The rows of ENC.PASSIVE to ENC.BEEP. -/
def discreteEnc : List DiscreteRow :=
  [⟨.encPassive, 0x100000000000000000, [128], 1, #v[128, 0, 0, 0, 0, 0, 0]⟩,
   ⟨.encSafe, 0x110000000000000000, [131], 1, #v[131, 0, 0, 0, 0, 0, 0]⟩,
   ⟨.encFull, 0x120000000000000000, [132], 1, #v[132, 0, 0, 0, 0, 0, 0]⟩,
   ⟨.encClean, 0x130000000000000000, [135], 1, #v[135, 0, 0, 0, 0, 0, 0]⟩,
   ⟨.encDock, 0x140000000000000000, [143], 1, #v[143, 0, 0, 0, 0, 0, 0]⟩,
   ⟨.encReset, 0x150000000000000000, [7], 1, #v[7, 0, 0, 0, 0, 0, 0]⟩,
   ⟨.encBeep, 0x160000000000000000, [140, 3, 1, 64, 16, 141, 3], 7, #v[140, 3, 1, 64, 16, 141, 3]⟩]

/-- The wire-frame rows without fields, WIRE.PASSIVE to WIRE.BEEP. -/
def discreteWire : List (Instr × Frame) :=
  [(.wirePassive, [128]), (.wireSafe, [131]), (.wireFull, [132]), (.wireClean, [135]), (.wireDock, [143]),
   (.wireReset, [7]), (.wireBeep, [140, 3, 1, 64, 16, 141, 3])]

/-- The discrete keys: the symbol code and the operation its press has the semantics of (R66). -/
def discreteKeys : List (BitVec 4 × Instr) :=
  [(4, .txPassive), (5, .txSafe), (6, .txFull), (7, .txClean), (8, .txDock), (9, .txReset), (10, .txBeep)]

/-! ## Reserved command words (R65), as numbers -/

/-- The operation codes of format N (R64). -/
def codesN : List Nat := [0x01, 0x02, 0x10, 0x11, 0x12, 0x13, 0x14, 0x15, 0x16, 0x20, 0x21, 0x22, 0x23, 0x24, 0x25, 0x26]

/-- The operation codes with operands (R64). -/
def codesOperand : List Nat := [0x17, 0x27, 0x30, 0x31, 0x40, 0x50, 0x51]

/-- `OP`, `A` and `B` of a word, as numbers (R57). -/
def opNumber (w : CommandWord) : Nat := w.toNat / 2 ^ 64
def aNumber (w : CommandWord) : Nat := w.toNat / 2 ^ 32 % 2 ^ 32
def bNumber (w : CommandWord) : Nat := w.toNat % 2 ^ 32

/-- The three ways a command word is reserved (R65): no such code; a must-be-zero field of the word's format (R58 to
R63) that is not zero; DECINT with `n` of 5, 6 or 7. -/
abbrev reserved (w : CommandWord) : Prop :=
  (opNumber w ∉ codesN ∧ opNumber w ∉ codesOperand) ∨
  (opNumber w ∈ codesN ∧ (aNumber w ≠ 0 ∨ bNumber w ≠ 0)) ∨
  (opNumber w ∈ [0x30, 0x31] ∧ (aNumber w ≠ 0 ∨ bNumber w / 16 ≠ 0)) ∨
  (opNumber w = 0x40 ∧ (aNumber w ≠ 0 ∨ bNumber w / 4 ≠ 0)) ∨
  (opNumber w = 0x50 ∧ bNumber w / 4 ≠ 0) ∨
  (opNumber w = 0x51 ∧ (bNumber w / 32 ≠ 0 ∨ 5 ≤ bNumber w / 4 % 8))

/-! ## Shapes of runs -/

/-- The bytes of a wire frame. -/
def wireBytes (i : Instr) : Frame :=
  match encode i with
  | .frame bs => bs
  | _ => []

/-- Both speeds fit in the Drive frame (R101). -/
abbrev speedsInRange (vr vl : Int) : Prop := (-32768 ≤ vr ∧ vr ≤ 32767) ∧ (-32768 ≤ vl ∧ vl ≤ 32767)

/-! ## Two runs compared -/

/-- The next state of an outcome, changed by `g`. -/
def mapNext (g : State → State) : Result → Result
  | .next s => .next (g s)
  | .fault r => .fault r
  | .refused r => .refused r

/-! ## Invariants -/

/-- A response is as R69 says: bytes from `flen` on are 0; a failed operation's response carries only its status, `di`
and `hv`; only a response with a frame says it was sent; bytes and a value are never both there. -/
def ResponseFilled (r : Response) : Prop :=
  (∀ i : Fin 7, r.flen.toNat ≤ i.val → r.fbytes[i] = 0) ∧
  (r.status ≠ .ok → r.sent = false ∧ r.flen = 0 ∧ r.value = 0 ∧ r.vw = false ∧ r.vs = false) ∧
  (r.sent = true → r.flen ≠ 0) ∧
  (r.flen ≠ 0 → r.value = 0 ∧ r.vw = false ∧ r.vs = false)

/-- The response last returned is filled as R69 says, and shows the registers as they are. -/
def ResponseCurrent (s : State) : Prop :=
  ∀ r, s.resp = some r → ResponseFilled r ∧ r.di = intentBits s.di ∧ r.hv = s.h

/-- A frame whose first byte is the Drive opcode. -/
def isDriveFrame (f : Frame) : Bool := decide (f.head? = some cfg.opDrive)

/-- The last Drive frame of a list of frames. -/
def lastDrive (frames : List Frame) : Option Frame := (frames.filter isDriveFrame).getLast?

/-- While `LS` is valid it holds a Drive frame, and that is the last Drive frame echoed (R23 items 1 and 2). -/
def LastSentRecorded (s : State) : Prop :=
  s.ls.valid = true → s.ls.frame[0] = cfg.opDrive ∧ lastDrive s.echoLog = some s.ls.frame.toList

/-- Every frame given to the display sink is one of the eight wire frames (R55). -/
def EchoesAreFrames (s : State) : Prop := ∀ f ∈ s.echoLog, ∃ i, isWire i = true ∧ encode i = .frame f

/-- The frames stand whole in the byte sequence, one behind the other and in that order. -/
def FramesWithin : List Frame → List Byte → Prop
  | [], _ => True
  | f :: fs, bytes => ∃ before after, bytes = before ++ f ++ after ∧ FramesWithin fs after

/-- Every frame echoed is on TX, whole and in the same order (R71). -/
def EchoesWithinTx (s : State) : Prop := FramesWithin s.echoLog s.txLog

/-- What every step keeps. -/
def Inv (s : State) : Prop :=
  ResponseCurrent s ∧ LastSentRecorded s ∧ EchoesAreFrames s ∧ EchoesWithinTx s

end Sys2Proof.Safety
end

