-- ==== Sys2Proof/Certificates/Slice0/Obligations.lean ====
section
/-! DEFINITION. The statements about the block, for the provers. -/

open Sys2Proof Sys2Proof.Machine Sys2Proof.Safety

/-! ## Encoding -/

/-- Words written out in the spec, one or more of each family, decode to the instruction they stand for (R72's and
95_test_vectors' examples). -/
def Obligations.SpecExampleWordsDecode : Prop :=
  decodeCommand 0x010000000000000000 = .ok .attach ∧
  decodeCommand 0x130000000000000000 = .ok .encClean ∧
  decodeCommand 0x27_0000012C_FFFFFED4 = .ok (.txDrive 300 (BitVec.ofInt 32 (-300))) ∧
  decodeCommand 0x30_00000000_00000001 = .ok (.keyPress 1) ∧
  decodeCommand 0x31_00000000_0000000A = .ok (.keyRelease 10) ∧
  decodeCommand 0x40_00000000_00000003 = .ok (.read ⟨.two, .signed⟩) ∧
  decodeCommand 0x50_FFFFFFFF_00000000 = .ok (.encint (BitVec.ofInt 32 (-1)) ⟨.one, .unsigned⟩) ∧
  decodeCommand 0x51_FED40000_0000000B = .ok (.decint [0xFE, 0xD4] ⟨.two, .signed⟩) ∧
  decodeWhole [0x91, 0x01, 0x2C, 0xFE, 0xD4] = .ok (.wireDrive 0x012C 0xFED4) ∧
  decodeWhole [0x8C, 0x03, 0x01, 0x40, 0x10, 0x8D, 0x03] = .ok .wireBeep

/-- Every well-formed instruction, with every operand value, is read back from its encoding. -/
def Obligations.DecodeOfEncodeIsIdentity : Prop :=
  ∀ i : Instr, i.wf = true → decode (encode i) = .ok i

/-- A command word that decodes gives a well-formed instruction, and but for the bytes DECINT ignores it is that
instruction's one encoding: a word of DECINT differs from the encoding in no bit of `OP` and `B` and in none of the `n`
bytes presented, which are the instruction's. -/
def Obligations.WordDecodesOnlyAsItsEncoding : Prop :=
  ∀ (w : CommandWord) (i : Instr), decodeCommand w = .ok i →
    i.wf = true ∧ isWire i = false ∧ ((∀ bs t, i ≠ .decint bs t) → encode i = .command w) ∧
    ∀ bs t, i = .decint bs t → ∃ v : CommandWord, encode i = .command v ∧
      v.extractLsb' 64 8 = w.extractLsb' 64 8 ∧ v.extractLsb' 0 32 = w.extractLsb' 0 32 ∧
      ∀ u ∈ [v, w],
        ([u.extractLsb' 56 8, u.extractLsb' 48 8, u.extractLsb' 40 8, u.extractLsb' 32 8] : List Byte).take bs.length
          = bs

/-- A command word selects a row of the opcode table iff `(w AND mask) = match` and the row's extra constraint holds:
what decodes stands in its row, and what stands in a row decodes to an instruction of that row. -/
def Obligations.DecoderSelectsTableRow : Prop :=
  ∀ (w : CommandWord) (i : Instr),
    (decodeCommand w = .ok i → rowSelects (tableRow i) w = true ∧ rowConstraint i w = true) ∧
    (rowSelects (tableRow i) w = true → rowConstraint i w = true →
      ∃ j, decodeCommand w = .ok j ∧ tableRow j = tableRow i)

/-- R65, R184: a reserved word is refused with IllegalCommand and nothing else happens; every other word is one of the
operations; key codes 11 to 15 are among them. -/
def Obligations.ReservedWordsRaiseIllegalCommand : Prop :=
  (∀ w : CommandWord, reserved w →
    (∀ i, decodeCommand w ≠ .ok i) ∧
    ∀ (s : State) (t : Turn) (rest : List Turn), s.script = t :: rest → t.signal = .command w →
      step s = .next { takeTurn t rest s with
        resp := some (responseBlank .illegalCommand (intentBits s.di) s.h) }) ∧
  (∀ w : CommandWord, ¬ reserved w → ∃ i, decodeCommand w = .ok i) ∧
  (∀ sym : BitVec 4, ¬ reserved (packFields ⟨0x30, 0, sym.setWidth 32⟩) ∧
    ¬ reserved (packFields ⟨0x31, 0, sym.setWidth 32⟩))

/-! ## The step -/

/-- A step takes the oldest turn (its answers, the change of the receive side) and runs the instruction it presents. -/
def Obligations.StepRunsDecodedInstruction : Prop :=
  ∀ (s : State) (t : Turn) (rest : List Turn) (i : Instr),
    s.script = t :: rest → decode t.signal = .ok i →
      step s = exec i { s with
        rx := (match t.rx with
          | .arrive bs => s.rx ++ bs
          | .become bs => bs),
        answers := t.answers, script := rest }

/-- With nothing presented the block does nothing (it sends no frame of its own accord). -/
def Obligations.IdleStepChangesNothing : Prop :=
  ∀ s : State, s.script = [] → step s = .next s

/-- The flags are 0, `LS` is unset, the handle is invalid and the histories are empty, at reset and after the reset
input in any state. The values are those of R21 and R201; that reset comes as an input in any state is the model's
choice (log 14). -/
def Obligations.ResetLeaves : Prop :=
  (State.reset.di = ⟨false, false, false, false⟩ ∧ State.reset.ls.valid = false ∧ State.reset.h = false ∧
    State.reset.txLog = [] ∧ State.reset.echoLog = []) ∧
  ∀ (s : State) (t : Turn) (rest : List Turn), s.script = t :: rest → t.signal = .reset →
    ∃ s', step s = .next s' ∧ s'.di = ⟨false, false, false, false⟩ ∧ s'.ls.valid = false ∧ s'.h = false ∧
      s'.txLog = [] ∧ s'.echoLog = []

/-! ## The Byte Codec -/

/-- R80, R81: `rangeOf`, and `encodeInt` gives the `w` bytes of the residue modulo `2^(8w)`, high byte first, or
RangeError. -/
def Obligations.EncodeIntMeaning : Prop :=
  (rangeLo ⟨.one, .unsigned⟩ = 0 ∧ rangeHi ⟨.one, .unsigned⟩ = 255 ∧
    rangeLo ⟨.one, .signed⟩ = -128 ∧ rangeHi ⟨.one, .signed⟩ = 127 ∧
    rangeLo ⟨.two, .unsigned⟩ = 0 ∧ rangeHi ⟨.two, .unsigned⟩ = 65535 ∧
    rangeLo ⟨.two, .signed⟩ = -32768 ∧ rangeHi ⟨.two, .signed⟩ = 32767) ∧
  ∀ (t : IntType) (v : Int),
    (rangeLo t ≤ v ∧ v ≤ rangeHi t →
      ∃ bs, encodeInt t v = .ok bs ∧ bs.length = widthBytes t.w ∧
        (frameNumber bs : Int) = v % 256 ^ widthBytes t.w) ∧
    (¬ (rangeLo t ≤ v ∧ v ≤ rangeHi t) → encodeInt t v = .error .rangeError)

/-- R82: `decodeInt` fails unless the byte count is the width; else it gives the big-endian number, less `2^(8w)` where
the type is signed and the number is `2^(8w-1)` or more, always in range. -/
def Obligations.DecodeIntMeaning : Prop :=
  ∀ (t : IntType) (bs : List Byte),
    (bs.length ≠ widthBytes t.w → decodeInt t bs = .error .formatError) ∧
    (bs.length = widthBytes t.w →
      ∃ v, decodeInt t bs = .ok v ∧ rangeLo t ≤ v ∧ v ≤ rangeHi t ∧
        v = if t.s = .signed ∧ 2 ^ (8 * widthBytes t.w - 1) ≤ frameNumber bs
            then (frameNumber bs : Int) - 2 ^ (8 * widthBytes t.w) else (frameNumber bs : Int))

/-- R83: decoding an encoded in-range value gives it back, and encoding a decoded byte sequence of the width gives it
back. -/
def Obligations.CodecRoundTrip : Prop :=
  (∀ (t : IntType) (v : Int), rangeLo t ≤ v → v ≤ rangeHi t →
    ∃ bs, encodeInt t v = .ok bs ∧ decodeInt t bs = .ok v) ∧
  (∀ (t : IntType) (bs : List Byte), bs.length = widthBytes t.w →
    ∃ v, decodeInt t bs = .ok v ∧ encodeInt t v = .ok bs)

/-- R84: ENCINT answers the bytes of its sign-extended operand, or RangeError; nothing but the response changes. -/
def Obligations.EncintMeaning : Prop :=
  (∀ (value : BitVec 32) (t : IntType),
    decodeCommand (packFields ⟨0x50, value, typeBits t⟩) = .ok (.encint value t)) ∧
  ∀ (value : BitVec 32) (t : IntType) (s : State),
    (rangeLo t ≤ value.toInt ∧ value.toInt ≤ rangeHi t →
      (t.w = .one → ∃ b0 : Byte, (b0.toNat : Int) = value.toInt % 256 ∧
        exec (.encint value t) s = .next { s with
          resp := some (responseFrame false 1 #v[b0, 0, 0, 0, 0, 0, 0] (intentBits s.di) s.h) }) ∧
      (t.w = .two → ∃ b0 b1 : Byte, (b0.toNat * 256 + b1.toNat : Int) = value.toInt % 65536 ∧
        exec (.encint value t) s = .next { s with
          resp := some (responseFrame false 2 #v[b0, b1, 0, 0, 0, 0, 0] (intentBits s.di) s.h) })) ∧
    (¬ (rangeLo t ≤ value.toInt ∧ value.toInt ≤ rangeHi t) →
      exec (.encint value t) s = .next { s with
        resp := some (responseBlank .rangeError (intentBits s.di) s.h) })

/-- R85: DECINT presents the first `n` bytes of `A`; with `n = w` it answers the value and its tag, else FormatError
with the handle kept; `n` above 4 is reserved. Nothing but the response changes. -/
def Obligations.DecintMeaning : Prop :=
  (∀ (a : BitVec 32) (n : Nat) (t : IntType), n ≤ 4 →
    decodeCommand (packFields ⟨0x51, a, BitVec.ofNat 32 (4 * n) + typeBits t⟩) =
      .ok (.decint ([a.extractLsb' 24 8, a.extractLsb' 16 8, a.extractLsb' 8 8, a.extractLsb' 0 8].take n) t)) ∧
  (∀ (a : BitVec 32) (n : Nat) (t : IntType), 4 < n → n ≤ 7 →
    ∃ e, decodeCommand (packFields ⟨0x51, a, BitVec.ofNat 32 (4 * n) + typeBits t⟩) = .error e ∧
      ∀ s : State, undecoded e s = .next { s with
        resp := some (responseBlank .illegalCommand (intentBits s.di) s.h) }) ∧
  ∀ (bs : List Byte) (t : IntType) (s : State),
    (bs.length = widthBytes t.w →
      ∃ v : Int, decodeInt t bs = .ok v ∧
        exec (.decint bs t) s = .next { s with
          resp := some (responseValue (BitVec.ofInt 32 v) (decide (t.w = .two)) (decide (t.s = .signed))
            (intentBits s.di) s.h) }) ∧
    (bs.length ≠ widthBytes t.w →
      exec (.decint bs t) s = .next { s with
        resp := some (responseBlank .formatError (intentBits s.di) s.h) })

/-! ## The Command Encoder -/

/-- R100, R53: the frames of the seven discrete kinds, in the order of their kind numbers, in every configuration and
with this hardware's values. -/
def Obligations.FrameOfTable : Prop :=
  (∀ c : Cfg, ([.passive, .safe, .full, .clean, .dock, .reset, .beep] : List Kind).map (frameOf c) =
    [[c.opPassive], [c.opSafe], [c.opFull], [c.opClean], [c.opDock], [c.opReset], c.beep.toList]) ∧
  ([.passive, .safe, .full, .clean, .dock, .reset, .beep] : List Kind).map (frameOf cfg) =
    [[128], [131], [132], [135], [143], [7], [140, 3, 1, 64, 16, 141, 3]]

/-- R103 to R109: each ENC operation's word decodes to it, and in every state it answers its frame and changes nothing
but the response. -/
def Obligations.EncDiscreteMeaning : Prop :=
  ∀ p ∈ discreteEnc, decodeCommand p.word = .ok p.instr ∧ AnswersFrame p.instr p.flen p.fbytes

/-- R101, R52: a Drive frame is the opcode and the two 16-bit codes, right wheel first, read as one 40-bit number; the
speeds are read back from it; an out-of-range speed is RangeError; distinct speeds give distinct frames. -/
def Obligations.EncodeDriveMeaning : Prop :=
  (∀ vr vl : Int, speedsInRange vr vl →
    ∃ f, encodeDrive cfg vr vl = .ok f ∧ f[0] = 145 ∧
      (frameNumber f.toList : Int) = 145 * 2 ^ 32 + vr % 2 ^ 16 * 2 ^ 16 + vl % 2 ^ 16 ∧
      driveSpeeds f = (vr, vl)) ∧
  (∀ vr vl : Int, ¬ speedsInRange vr vl → encodeDrive cfg vr vl = .error .rangeError) ∧
  (∀ vr vl vr' vl' : Int, speedsInRange vr vl → speedsInRange vr' vl' →
    encodeDrive cfg vr vl = encodeDrive cfg vr' vl' → vr = vr' ∧ vl = vl')

/-- R110: ENC.DRIVE answers the Drive frame of its sign-extended operands, or RangeError without clamping; nothing but
the response changes. -/
def Obligations.EncDriveMeaning : Prop :=
  ∀ vr vl : BitVec 32,
    decodeCommand (packFields ⟨0x17, vr, vl⟩) = .ok (.encDrive vr vl) ∧
    (speedsInRange vr.toInt vl.toInt →
      ∃ f, encodeDrive cfg vr.toInt vl.toInt = .ok f ∧ ∀ s : State,
        exec (.encDrive vr vl) s = .next { s with
          resp := some (responseFrame false 5 #v[f[0], f[1], f[2], f[3], f[4], 0, 0] (intentBits s.di) s.h) }) ∧
    (¬ speedsInRange vr.toInt vl.toInt → ∀ s : State,
      exec (.encDrive vr vl) s = .next { s with
        resp := some (responseBlank .rangeError (intentBits s.di) s.h) })

/-- R111 to R117: each TX operation's word decodes to it; with a valid handle, an open transport and a healthy write it
puts its frame on TX and ECHO and answers it; else ConnectionLost, with `H` 0 and at most a first part of the frame on
TX. Nothing else changes. -/
def Obligations.TxDiscreteMeaning : Prop :=
  ∀ p ∈ discreteTx, decodeCommand p.word = .ok p.instr ∧ TransmitsFrame p.instr p.frame p.flen p.fbytes

/-- R118: TX.DRIVE checks the range first, with any handle; then it transmits the Drive frame and records it in `LS`,
whatever `LS` was. -/
def Obligations.TxDriveMeaning : Prop :=
  ∀ vr vl : BitVec 32,
    decodeCommand (packFields ⟨0x27, vr, vl⟩) = .ok (.txDrive vr vl) ∧
    (speedsInRange vr.toInt vl.toInt →
      ∃ f, encodeDrive cfg vr.toInt vl.toInt = .ok f ∧
        ∀ s : State, TransmitsDrive f s (exec (.txDrive vr vl) s)) ∧
    (¬ speedsInRange vr.toInt vl.toInt → ∀ s : State,
      exec (.txDrive vr vl) s = .next { s with
        resp := some (responseBlank .rangeError (intentBits s.di) s.h) })

/-- The wire-frame rows (the model's reading of them, log 7): each is the transmission of that frame, as the operation
that produces it does it. -/
def Obligations.WireFramesTransmit : Prop :=
  (∀ p ∈ discreteWire, decodeWhole p.2 = .ok p.1 ∧
    TransmitsFrame p.1 p.2 (BitVec.ofNat 3 p.2.length) (padFrame p.2)) ∧
  (∀ vr vl : BitVec 16, ∃ f : Vector Byte 5, encodeDrive cfg vr.toInt vl.toInt = .ok f ∧
    decodeWhole f.toList = .ok (.wireDrive vr vl) ∧
    ∀ s : State, TransmitsDrive f s (exec (.wireDrive vr vl) s))

/-! ## The transport -/

/-- R46: the four ways `send` ends, and that it writes only `H`, TXLOG and ECHOLOG. -/
def Obligations.SendMeaning : Prop :=
  ∀ (f : Frame) (s : State),
    (s.h = false → send f s = .lost s) ∧
    (s.h = true → s.answers.isOpen = false → send f s = .lost { s with h := false }) ∧
    (∀ k, s.h = true → s.answers.isOpen = true → s.answers.tx = .fault k →
      send f s = .lost { s with h := false, txLog := s.txLog ++ f.take k }) ∧
    (s.h = true → s.answers.isOpen = true → s.answers.tx = .ok →
      send f s = .ok { s with txLog := s.txLog ++ f, echoLog := s.echoLog ++ [f] })

/-- R34: `TxWrite` appends the whole frame, or fails with a first part of it on TX; every length of that part, none and
the whole frame included, is some answer's. -/
def Obligations.TxWriteMeaning : Prop :=
  ∀ (f : Frame) (s : State),
    (s.answers.tx = .ok → txWrite f s = (true, { s with txLog := s.txLog ++ f })) ∧
    (∀ k, s.answers.tx = .fault k → ∃ m, m ≤ f.length ∧
      txWrite f s = (false, { s with txLog := s.txLog ++ f.take m })) ∧
    (∀ m, m ≤ f.length → ∃ a : Answers,
      txWrite f { s with answers := a } = (false, { s with answers := a, txLog := s.txLog ++ f.take m }))

/-- R35: `RxReadExact(n)` gives the next `n` bytes and removes them, or a short read that removes fewer than `n`, or a
fault that removes any number; the environment can choose each. -/
def Obligations.RxReadExactMeaning : Prop :=
  ∀ (n : Nat) (s : State), n = 1 ∨ n = 2 →
    (∀ bs s', rxReadExact n s = .bytes bs s' →
      bs.length = n ∧ s.rx = bs ++ s'.rx ∧ s' = { s with rx := s'.rx }) ∧
    (∀ s', rxReadExact n s = .short s' →
      ∃ bs, bs.length < n ∧ s.rx = bs ++ s'.rx ∧ s' = { s with rx := s'.rx }) ∧
    (∀ s', rxReadExact n s = .fault s' → ∃ bs, s.rx = bs ++ s'.rx ∧ s' = { s with rx := s'.rx }) ∧
    (∀ bs rest, bs.length = n → ∃ a : Answers,
      rxReadExact n { s with rx := bs ++ rest, answers := a } = .bytes bs { s with rx := rest, answers := a }) ∧
    (∀ bs rest, bs.length < n → ∃ a : Answers,
      rxReadExact n { s with rx := bs ++ rest, answers := a } = .short { s with rx := rest, answers := a }) ∧
    (∀ bs rest, ∃ a : Answers,
      rxReadExact n { s with rx := bs ++ rest, answers := a } = .fault { s with rx := rest, answers := a })

/-- READ, in every state and with every answer of the transport (R130, R205). How many bytes a short read or a fault
takes is the answer's (log 10), and that a read never answered stops the machine with `readBlocked` is the model's form
of R205 (log 8). -/
def Obligations.ReadMeaning : Prop :=
  (decodeCommand 0x40_00000000_00000000 = .ok (.read ⟨.one, .unsigned⟩) ∧
    decodeCommand 0x40_00000000_00000001 = .ok (.read ⟨.two, .unsigned⟩) ∧
    decodeCommand 0x40_00000000_00000002 = .ok (.read ⟨.one, .signed⟩) ∧
    decodeCommand 0x40_00000000_00000003 = .ok (.read ⟨.two, .signed⟩)) ∧
  ∀ (t : IntType) (s : State),
    (s.h = false →
      exec (.read t) s = .next { s with resp := some (responseBlank .connectionLost (intentBits s.di) false) }) ∧
    (s.h = true → s.answers.isOpen = false →
      exec (.read t) s = .next { s with
        h := false, resp := some (responseBlank .connectionLost (intentBits s.di) false) }) ∧
    (s.h = true → s.answers.isOpen = true →
      (s.answers.rx = .serve → widthBytes t.w ≤ s.rx.length →
        ∃ v : Int, rangeLo t ≤ v ∧ v ≤ rangeHi t ∧ decodeInt t (s.rx.take (widthBytes t.w)) = .ok v ∧
          exec (.read t) s = .next { s with
            rx := s.rx.drop (widthBytes t.w),
            resp := some (responseValue (BitVec.ofInt 32 v) (decide (t.w = .two)) (decide (t.s = .signed))
              (intentBits s.di) true) }) ∧
      (s.answers.rx = .serve → s.rx.length < widthBytes t.w →
        exec (.read t) s = .next { s with
          rx := [], h := false, resp := some (responseBlank .formatError (intentBits s.di) false) }) ∧
      (∀ k, s.answers.rx = .short k →
        exec (.read t) s = .next { s with
          rx := s.rx.drop (min k (widthBytes t.w - 1)), h := false,
          resp := some (responseBlank .formatError (intentBits s.di) false) }) ∧
      (∀ k, s.answers.rx = .fault k →
        exec (.read t) s = .next { s with
          rx := s.rx.drop k, h := false,
          resp := some (responseBlank .connectionLost (intentBits s.di) false) }) ∧
      (s.answers.rx = .never → exec (.read t) s = .fault .readBlocked))

/-- With an invalid handle no operation consults the transport: its answers and the receive side have no part in the
outcome and stay as they are. -/
def Obligations.InvalidHandleNeverConsultsTransport : Prop :=
  ∀ (i : Instr) (s : State) (a : Answers) (bytes : List Byte), s.h = false →
    exec i { s with answers := a, rx := bytes } =
      mapNext (fun s' => { s' with answers := a, rx := bytes }) (exec i s)

/-- READ does not depend on what was written to TX or echoed, and writes neither. -/
def Obligations.ReadIgnoresTx : Prop :=
  ∀ (t : IntType) (s : State) (tx : List Byte) (echo : List Frame),
    exec (.read t) { s with txLog := tx, echoLog := echo } =
      mapNext (fun s' => { s' with txLog := tx, echoLog := echo }) (exec (.read t) s)

/-- R171: ATTACH sets the handle valid and unsets `LS` (nothing is said of the unread `LS.frame`), nothing else but the
response changes, and no other instruction makes an invalid handle valid. -/
def Obligations.AttachMeaning : Prop :=
  decodeCommand 0x01_00000000_00000000 = .ok .attach ∧
  (∀ s : State, ∃ frame, exec .attach s = .next { s with
    h := true, ls := { valid := false, frame := frame },
    resp := some (responseBlank .ok (intentBits s.di) true) }) ∧
  ∀ (i : Instr) (s s' : State), exec i s = .next s' → s.h = false → s'.h = true → i = .attach

/-- R172: DETACH sets the handle invalid and unsets `LS` (nothing is said of the unread `LS.frame`); nothing else but
the response changes. -/
def Obligations.DetachMeaning : Prop :=
  decodeCommand 0x02_00000000_00000000 = .ok .detach ∧
  ∀ s : State, ∃ frame, exec .detach s = .next { s with
    h := false, ls := { valid := false, frame := frame },
    resp := some (responseBlank .ok (intentBits s.di) false) }

/-! ## The Drive Intent Tracker -/

/-- R140, R141: opposite keys cancel, the rotation is even, and each wheel is the sum, clamped on its own. -/
def Obligations.DriveVectorAndWheelSpeeds : Prop :=
  (∀ (c : Cfg) (di : DriveIntent),
    driveVelocity c di = (if di.f = di.b then 0 else if di.f then (c.cv : Int) else -(c.cv : Int)) ∧
    driveRotation c di = (if di.l = di.r then 0 else if di.l then (c.cr : Int) else -(c.cr : Int)) ∧
    driveRotation c di % 2 = 0) ∧
  (∀ x : Int, (x < -32768 → clamp16 x = -32768) ∧ (32767 < x → clamp16 x = 32767) ∧
    (-32768 ≤ x → x ≤ 32767 → clamp16 x = x)) ∧
  (∀ v r half : Int, r = 2 * half → wheelSpeeds v r = (clamp16 (v + half), clamp16 (v - half))) ∧
  wheelSpeeds (driveVelocity cfg ⟨true, false, true, false⟩) (driveRotation cfg ⟨true, false, true, false⟩) = (200, 100)

/-- R142: the drive frame is the encoding of the wheel speeds, no configuration makes it RangeError, and these are its
16 values. -/
def Obligations.DriveFrameMeaning : Prop :=
  (∀ (c : Cfg) (di : DriveIntent), ∃ f vr vl, (vr, vl) = wheelSpeeds (driveVelocity c di) (driveRotation c di) ∧
    speedsInRange vr vl ∧ encodeDrive c vr vl = .ok f ∧ driveFrame c di = .ok f) ∧
  (∀ r l : Bool,
    driveFrame cfg ⟨false, false, l, r⟩ = .ok
      (if l = r then #v[0x91, 0, 0, 0, 0] else if l then #v[0x91, 0x00, 0x32, 0xFF, 0xCE]
        else #v[0x91, 0xFF, 0xCE, 0x00, 0x32]) ∧
    driveFrame cfg ⟨true, true, l, r⟩ = driveFrame cfg ⟨false, false, l, r⟩ ∧
    driveFrame cfg ⟨true, false, l, r⟩ = .ok
      (if l = r then #v[0x91, 0x00, 0x96, 0x00, 0x96] else if l then #v[0x91, 0x00, 0xC8, 0x00, 0x64]
        else #v[0x91, 0x00, 0x64, 0x00, 0xC8]) ∧
    driveFrame cfg ⟨false, true, l, r⟩ = .ok
      (if l = r then #v[0x91, 0xFF, 0x6A, 0xFF, 0x6A] else if l then #v[0x91, 0xFF, 0x9C, 0xFF, 0x38]
        else #v[0x91, 0xFF, 0x38, 0xFF, 0x9C]))

/-- A change of one flag always changes the frame, in every configuration with positive magnitudes that never clamps. -/
def Obligations.FlagChangeChangesFrame : Prop :=
  ∀ (c : Cfg) (di : DriveIntent) (d : Direction), 0 < c.cv → 0 < c.cr → c.cv + c.cr / 2 ≤ 32767 →
    driveFrame c (setFlag di d (!getFlag di d)) ≠ driveFrame c di

/-- R143: `driveUpdate` does nothing if the frame of the flags is the one `LS` holds, else it transmits that frame and
records it. -/
def Obligations.DriveUpdateMeaning : Prop :=
  ∀ s : State, UpdatesDrive s (driveUpdate s)

/-- R144: the four direction keys and the flags they name, and KEY.PRESS of every key symbol of R66: a direction key not
held sets its flag first and updates; one already held changes nothing; a discrete key is its TX operation; an unbound
key changes nothing. -/
def Obligations.KeyPressMeaning : Prop :=
  (∀ sym : BitVec 4, decodeCommand (packFields ⟨0x30, 0, sym.setWidth 32⟩) = .ok (.keyPress sym)) ∧
  (directionOf 0 = some .forward ∧ directionOf 1 = some .left ∧ directionOf 2 = some .backward ∧
    directionOf 3 = some .right) ∧
  (∀ di : DriveIntent,
    (getFlag di .forward = di.f ∧ getFlag di .left = di.l ∧ getFlag di .backward = di.b ∧ getFlag di .right = di.r) ∧
    ∀ v : Bool, setFlag di .forward v = { di with f := v } ∧ setFlag di .left v = { di with l := v } ∧
      setFlag di .backward v = { di with b := v } ∧ setFlag di .right v = { di with r := v }) ∧
  ∀ s : State,
    (∀ sym d, directionOf sym = some d → getFlag s.di d = false →
      UpdatesDrive { s with di := setFlag s.di d true } (exec (.keyPress sym) s)) ∧
    (∀ sym d, directionOf sym = some d → getFlag s.di d = true →
      exec (.keyPress sym) s = .next { s with resp := some (responseBlank .ok (intentBits s.di) s.h) }) ∧
    (∀ p ∈ discreteKeys, exec (.keyPress p.1) s = exec p.2 s) ∧
    (∀ sym : BitVec 4, 11 ≤ sym.toNat →
      exec (.keyPress sym) s = .next { s with resp := some (responseBlank .ok (intentBits s.di) s.h) })

/-- R145: KEY.RELEASE of every key symbol: a held direction key clears its flag first and updates; one not held and
every other key change nothing. -/
def Obligations.KeyReleaseMeaning : Prop :=
  (∀ sym : BitVec 4, decodeCommand (packFields ⟨0x31, 0, sym.setWidth 32⟩) = .ok (.keyRelease sym)) ∧
  ∀ s : State,
    (∀ sym d, directionOf sym = some d → getFlag s.di d = true →
      UpdatesDrive { s with di := setFlag s.di d false } (exec (.keyRelease sym) s)) ∧
    (∀ sym d, directionOf sym = some d → getFlag s.di d = false →
      exec (.keyRelease sym) s = .next { s with resp := some (responseBlank .ok (intentBits s.di) s.h) }) ∧
    (∀ sym : BitVec 4, 4 ≤ sym.toNat →
      exec (.keyRelease sym) s = .next { s with resp := some (responseBlank .ok (intentBits s.di) s.h) })

/-- R11, R146: every direction event is accepted in every state and moves `DI` along its one bit, named flag by named
flag; no other instruction writes a flag. -/
def Obligations.OnlyMatchingKeysMoveIntent : Prop :=
  (∀ s : State,
    (∃ s', exec (.keyPress 0) s = .next s' ∧ s'.di = { s.di with f := true }) ∧
    (∃ s', exec (.keyPress 1) s = .next s' ∧ s'.di = { s.di with l := true }) ∧
    (∃ s', exec (.keyPress 2) s = .next s' ∧ s'.di = { s.di with b := true }) ∧
    (∃ s', exec (.keyPress 3) s = .next s' ∧ s'.di = { s.di with r := true }) ∧
    (∃ s', exec (.keyRelease 0) s = .next s' ∧ s'.di = { s.di with f := false }) ∧
    (∃ s', exec (.keyRelease 1) s = .next s' ∧ s'.di = { s.di with l := false }) ∧
    (∃ s', exec (.keyRelease 2) s = .next s' ∧ s'.di = { s.di with b := false }) ∧
    (∃ s', exec (.keyRelease 3) s = .next s' ∧ s'.di = { s.di with r := false })) ∧
  (∀ (i : Instr) (s s' : State), exec i s = .next s' →
    (∀ sym : BitVec 4, sym.toNat < 4 → i ≠ .keyPress sym ∧ i ≠ .keyRelease sym) → s'.di = s.di)

/-- Duplicate suppression: when a direction key transmits a Drive frame and `LS` is valid, the frame is not the last
Drive frame transmitted before. -/
def Obligations.DirectionKeysNeverRepeatTheLastFrame : Prop :=
  ∀ (i : Instr) (sym : BitVec 4) (s s' : State) (f : Frame),
    i = .keyPress sym ∨ i = .keyRelease sym → directionOf sym ≠ none →
    LastSentRecorded s → s.ls.valid = true →
    exec i s = .next s' → s'.echoLog = s.echoLog ++ [f] →
      isDriveFrame f = true ∧ lastDrive s.echoLog ≠ some f

/-! ## Whole-machine rules -/

/-- Who writes `LS`: ATTACH and DETACH unset it; otherwise it changes only to a Drive frame just echoed, by TX.DRIVE, a
direction key or WIRE.DRIVE (log 7), and never in an operation that fails. -/
def Obligations.LastSentWrites : Prop :=
  ∀ (i : Instr) (s s' : State) (r : Response), exec i s = .next s' → s'.resp = some r →
    ((i = .attach ∨ i = .detach) → s'.ls.valid = false) ∧
    (¬ (i = .attach ∨ i = .detach) → s'.ls ≠ s.ls →
      s'.ls.valid = true ∧ s'.echoLog = s.echoLog ++ [s'.ls.frame.toList] ∧ s'.ls.frame[0] = 145 ∧
      ((∃ vr vl, i = .txDrive vr vl) ∨ (∃ vr vl, i = .wireDrive vr vl) ∨
        ∃ sym, directionOf sym ≠ none ∧ (i = .keyPress sym ∨ i = .keyRelease sym))) ∧
    (r.status ≠ .ok → s'.ls = s.ls)

/-- R15: who writes `H`: ATTACH sets it; DETACH, ConnectionLost and a short READ clear it; nothing else writes it, a
reserved word neither. -/
def Obligations.HandleWrites : Prop :=
  (∀ (i : Instr) (s s' : State) (r : Response), exec i s = .next s' → s'.resp = some r →
    (i = .attach → s'.h = true) ∧
    (i = .detach → s'.h = false) ∧
    (r.status = .connectionLost → s'.h = false) ∧
    ((∃ t, i = .read t) → r.status = .formatError → s'.h = false) ∧
    (i ≠ .attach → i ≠ .detach → r.status ≠ .connectionLost →
      ¬ ((∃ t, i = .read t) ∧ r.status = .formatError) → s'.h = s.h)) ∧
  (∀ (w : CommandWord) (s : State) (t : Turn) (rest : List Turn),
    s.script = t :: rest → t.signal = .command w → reserved w → ∃ s', step s = .next s' ∧ s'.h = s.h)

/-- R180: which operation raises which status, from which cause, and what it writes; IllegalCommand comes from the
decoder alone. (For the 23 operations; the wire-frame rows are no operations.) -/
def Obligations.StatusTable : Prop :=
  ∀ (i : Instr) (s s' : State) (r : Response), isWire i = false → exec i s = .next s' → s'.resp = some r →
    (r.status = .rangeError → s' = { s with resp := some r } ∧
      ((∃ v t, i = .encint v t ∧ ¬ (rangeLo t ≤ v.toInt ∧ v.toInt ≤ rangeHi t)) ∨
        ∃ vr vl, (i = .encDrive vr vl ∨ i = .txDrive vr vl) ∧ ¬ speedsInRange vr.toInt vl.toInt)) ∧
    (r.status = .formatError →
      (∃ bs t, i = .decint bs t ∧ bs.length ≠ widthBytes t.w ∧ s' = { s with resp := some r }) ∨
      (∃ t s1, i = .read t ∧ s.h = true ∧ s.answers.isOpen = true ∧ rxReadExact (widthBytes t.w) s = .short s1 ∧
        s' = { s1 with h := false, resp := some r })) ∧
    (r.status = .connectionLost → s'.h = false ∧ isPure i = false ∧ i ≠ .attach ∧ i ≠ .detach ∧
      (s.h = false ∨ s.answers.isOpen = false ∨ (∃ k, s.answers.tx = .fault k) ∨
        ∃ t k, i = .read t ∧ s.answers.rx = .fault k)) ∧
    r.status ≠ .illegalCommand

/-- R183: ConnectionLost comes from READ or from `send`, of one of the eight frames. After it the handle is unusable,
`LS` and ECHOLOG are as before, and no flag is cleared but by the release it was raised in; when it comes from `send`
the rest of the state is what `send` leaves. -/
def Obligations.ConnectionLostEffects : Prop :=
  ∀ (i : Instr) (s s' : State) (r : Response), exec i s = .next s' → s'.resp = some r →
    r.status = .connectionLost →
      s'.h = false ∧ s'.ls = s.ls ∧ s'.echoLog = s.echoLog ∧
      (s'.di = s.di ∨ ∃ sym d, directionOf sym = some d ∧
        ((i = .keyPress sym ∧ s'.di = setFlag s.di d true) ∨
          (i = .keyRelease sym ∧ s'.di = setFlag s.di d false))) ∧
      ((∃ t, i = .read t) ∧ s'.txLog = s.txLog ∨
        ∃ j s1, isWire j = true ∧ send (wireBytes j) { s with di := s'.di } = .lost s1 ∧
          s' = { s1 with resp := some r })

/-- R186: the first cause in the order wins: the reserved word, the range, the handle, the transport's liveness, the
transport's answer. -/
def Obligations.ErrorPriority : Prop :=
  (∀ (w : CommandWord) (s : State) (t : Turn) (rest : List Turn),
    s.script = t :: rest → t.signal = .command w → reserved w →
      ∃ s' r, step s = .next s' ∧ s'.resp = some r ∧ r.status = .illegalCommand ∧ s'.h = s.h) ∧
  (∀ (vr vl : BitVec 32) (s : State), ∃ s' r, exec (.txDrive vr vl) s = .next s' ∧ s'.resp = some r ∧
    (¬ speedsInRange vr.toInt vl.toInt → r.status = .rangeError ∧ s'.h = s.h) ∧
    (speedsInRange vr.toInt vl.toInt →
      (s.h = false → r.status = .connectionLost) ∧
      (s.h = true → s.answers.isOpen = false → r.status = .connectionLost ∧ s'.txLog = s.txLog) ∧
      (s.h = true → s.answers.isOpen = true → (∃ k, s.answers.tx = .fault k) → r.status = .connectionLost) ∧
      (s.h = true → s.answers.isOpen = true → s.answers.tx = .ok → r.status = .ok))) ∧
  (∀ (ty : IntType) (s : State), s.answers.rx ≠ .never → ∃ s' r, exec (.read ty) s = .next s' ∧ s'.resp = some r ∧
    (s.h = false ∨ s.answers.isOpen = false → r.status = .connectionLost ∧ s'.rx = s.rx) ∧
    (s.h = true → s.answers.isOpen = true →
      (∀ s1, rxReadExact (widthBytes ty.w) s = .fault s1 → r.status = .connectionLost) ∧
      (∀ s1, rxReadExact (widthBytes ty.w) s = .short s1 → r.status = .formatError)))

/-- R70: the numbers of the statuses. -/
def Obligations.StatusCodes : Prop :=
  statusCode .ok = 0 ∧ statusCode .rangeError = 1 ∧ statusCode .formatError = 2 ∧ statusCode .connectionLost = 3 ∧
  statusCode .illegalCommand = 4 ∧ ∀ st, (statusCode st).toNat < 5

/-- Every instruction answers a response in every state, but a READ that the transport never answers, which is stuck. -/
def Obligations.EveryInstructionResponds : Prop :=
  ∀ (i : Instr) (s : State),
    (∃ s' r, exec i s = .next s' ∧ s'.resp = some r ∧ s'.answers = s.answers ∧ s'.script = s.script) ∨
    (∃ t, i = .read t ∧ s.h = true ∧ s.answers.isOpen = true ∧ s.answers.rx = .never ∧
      exec i s = .fault .readBlocked)

/-- ENC.*, ENCINT and DECINT change nothing but the response, and the response depends on no state but for `di` and
`hv`. -/
def Obligations.PureOperationsDependOnOperandsAlone : Prop :=
  ∀ (i : Instr) (s1 s2 : State), isPure i = true → ∃ r : Response,
    exec i s1 = .next { s1 with resp := some { r with di := intentBits s1.di, hv := s1.h } } ∧
    exec i s2 = .next { s2 with resp := some { r with di := intentBits s2.di, hv := s2.h } }

/-- TXLOG and ECHOLOG only grow, but for the reset input. -/
def Obligations.HistoriesOnlyGrow : Prop :=
  ∀ s s' : State, (∀ t rest, s.script = t :: rest → t.signal ≠ .reset) → step s = .next s' →
    (∃ bytes, s'.txLog = s.txLog ++ bytes) ∧ ∃ frames, s'.echoLog = s.echoLog ++ frames

/-- While every write is healthy, TX carries the echoed frames one behind the other and nothing else. -/
def Obligations.HealthyTxCarriesExactlyTheEchoes : Prop :=
  ∀ s s' : State, (∀ t rest, s.script = t :: rest → t.answers.tx = .ok) →
    s.txLog = s.echoLog.flatten → step s = .next s' → s'.txLog = s'.echoLog.flatten

/-- A log of whole frames is cut back into them from the first bytes alone. -/
def Obligations.FramesAreCutBack : Prop :=
  ∀ frames : List Instr, (∀ i ∈ frames, isWire i = true) →
    cutFrames frames.length (frames.flatMap wireBytes) = .ok frames

/-- What every step keeps, from every state that has it: the response is filled as R69 says and shows the registers, a
valid `LS` holds the last Drive frame echoed, every echo is one of the eight frames, and TX carries every echo whole and
in order. -/
def Obligations.InvariantKeptByEveryStep : Prop :=
  ∀ s s' : State, Inv s → step s = .next s' → Inv s'

/-- That invariant holds at reset. -/
def Obligations.InvariantHoldsAtReset : Prop := Inv State.reset

/-! ## Assembly -/

/-- R72's examples assemble to the words it gives, and a line with an operand out of its bounds does not assemble. -/
def Obligations.AssemblyExamples : Prop :=
  assembleWord "TX.DRIVE 300, -300" = some (.command 0x27_0000012C_FFFFFED4) ∧
  assembleWord "KEY.PRESS LEFT" = some (.command 0x30_00000000_00000001) ∧
  assembleWord "KEY.PRESS A" = assembleWord "KEY.PRESS LEFT" ∧
  assembleWord "READ S16" = some (.command 0x40_00000000_00000003) ∧
  assembleWord "DECINT [0xFE, 0xD4], S16" = some (.command 0x51_FED40000_0000000B) ∧
  assembleWord "ENC.BEEP ; the song" = some (.command 0x16_00000000_00000000) ∧
  assembleWord "ENC.DRIVE 2147483648, 0" = none

/-! ## What every response shows -/

/-- R10, R69: whatever the turn presents, reserved words too, a response shows `DI` and `H` as the operation leaves
them: bit 0 of `di` is forward, bit 1 backward, bit 2 left, bit 3 right, and `hv` is `H`. -/
def Obligations.ResponseShowsRegisters : Prop :=
  (∀ di : DriveIntent, (intentBits di)[0] = di.f ∧ (intentBits di)[1] = di.b ∧ (intentBits di)[2] = di.l ∧
    (intentBits di)[3] = di.r) ∧
  ∀ (s s' : State) (t : Turn) (rest : List Turn) (r : Response),
    s.script = t :: rest → step s = .next s' → s'.resp = some r →
      r.di[0] = s'.di.f ∧ r.di[1] = s'.di.b ∧ r.di[2] = s'.di.l ∧ r.di[3] = s'.di.r ∧ r.hv = s'.h
end

