-- ==== Sys2Proof/Laws/State.lean ====
section
/-! SUPPORT. One lemma per field per update of State. -/

namespace Sys2Proof.Machine

variable (s : State)

@[simp] theorem State.setDi_di (di : DriveIntent) : (s.setDi di).di = di := rfl
@[simp] theorem State.setDi_ls (di : DriveIntent) : (s.setDi di).ls = s.ls := rfl
@[simp] theorem State.setDi_h (di : DriveIntent) : (s.setDi di).h = s.h := rfl
@[simp] theorem State.setDi_txLog (di : DriveIntent) : (s.setDi di).txLog = s.txLog := rfl
@[simp] theorem State.setDi_echoLog (di : DriveIntent) : (s.setDi di).echoLog = s.echoLog := rfl
@[simp] theorem State.setDi_rx (di : DriveIntent) : (s.setDi di).rx = s.rx := rfl
@[simp] theorem State.setDi_answers (di : DriveIntent) : (s.setDi di).answers = s.answers := rfl
@[simp] theorem State.setDi_resp (di : DriveIntent) : (s.setDi di).resp = s.resp := rfl
@[simp] theorem State.setDi_script (di : DriveIntent) : (s.setDi di).script = s.script := rfl

@[simp] theorem State.recordSent_di (f : Vector Byte 5) : (s.recordSent f).di = s.di := rfl
@[simp] theorem State.recordSent_ls (f : Vector Byte 5) : (s.recordSent f).ls = { valid := true, frame := f } := rfl
@[simp] theorem State.recordSent_h (f : Vector Byte 5) : (s.recordSent f).h = s.h := rfl
@[simp] theorem State.recordSent_txLog (f : Vector Byte 5) : (s.recordSent f).txLog = s.txLog := rfl
@[simp] theorem State.recordSent_echoLog (f : Vector Byte 5) : (s.recordSent f).echoLog = s.echoLog := rfl
@[simp] theorem State.recordSent_rx (f : Vector Byte 5) : (s.recordSent f).rx = s.rx := rfl
@[simp] theorem State.recordSent_answers (f : Vector Byte 5) : (s.recordSent f).answers = s.answers := rfl
@[simp] theorem State.recordSent_resp (f : Vector Byte 5) : (s.recordSent f).resp = s.resp := rfl
@[simp] theorem State.recordSent_script (f : Vector Byte 5) : (s.recordSent f).script = s.script := rfl

@[simp] theorem State.forgetSent_di : (s.forgetSent).di = s.di := rfl
@[simp] theorem State.forgetSent_ls : (s.forgetSent).ls = { valid := false, frame := s.ls.frame } := rfl
@[simp] theorem State.forgetSent_h : (s.forgetSent).h = s.h := rfl
@[simp] theorem State.forgetSent_txLog : (s.forgetSent).txLog = s.txLog := rfl
@[simp] theorem State.forgetSent_echoLog : (s.forgetSent).echoLog = s.echoLog := rfl
@[simp] theorem State.forgetSent_rx : (s.forgetSent).rx = s.rx := rfl
@[simp] theorem State.forgetSent_answers : (s.forgetSent).answers = s.answers := rfl
@[simp] theorem State.forgetSent_resp : (s.forgetSent).resp = s.resp := rfl
@[simp] theorem State.forgetSent_script : (s.forgetSent).script = s.script := rfl

@[simp] theorem State.setHandle_di (v : Bool) : (s.setHandle v).di = s.di := rfl
@[simp] theorem State.setHandle_ls (v : Bool) : (s.setHandle v).ls = s.ls := rfl
@[simp] theorem State.setHandle_h (v : Bool) : (s.setHandle v).h = v := rfl
@[simp] theorem State.setHandle_txLog (v : Bool) : (s.setHandle v).txLog = s.txLog := rfl
@[simp] theorem State.setHandle_echoLog (v : Bool) : (s.setHandle v).echoLog = s.echoLog := rfl
@[simp] theorem State.setHandle_rx (v : Bool) : (s.setHandle v).rx = s.rx := rfl
@[simp] theorem State.setHandle_answers (v : Bool) : (s.setHandle v).answers = s.answers := rfl
@[simp] theorem State.setHandle_resp (v : Bool) : (s.setHandle v).resp = s.resp := rfl
@[simp] theorem State.setHandle_script (v : Bool) : (s.setHandle v).script = s.script := rfl

@[simp] theorem State.appendTx_di (bs : List Byte) : (s.appendTx bs).di = s.di := rfl
@[simp] theorem State.appendTx_ls (bs : List Byte) : (s.appendTx bs).ls = s.ls := rfl
@[simp] theorem State.appendTx_h (bs : List Byte) : (s.appendTx bs).h = s.h := rfl
@[simp] theorem State.appendTx_txLog (bs : List Byte) : (s.appendTx bs).txLog = s.txLog ++ bs := rfl
@[simp] theorem State.appendTx_echoLog (bs : List Byte) : (s.appendTx bs).echoLog = s.echoLog := rfl
@[simp] theorem State.appendTx_rx (bs : List Byte) : (s.appendTx bs).rx = s.rx := rfl
@[simp] theorem State.appendTx_answers (bs : List Byte) : (s.appendTx bs).answers = s.answers := rfl
@[simp] theorem State.appendTx_resp (bs : List Byte) : (s.appendTx bs).resp = s.resp := rfl
@[simp] theorem State.appendTx_script (bs : List Byte) : (s.appendTx bs).script = s.script := rfl

@[simp] theorem State.appendEcho_di (f : Frame) : (s.appendEcho f).di = s.di := rfl
@[simp] theorem State.appendEcho_ls (f : Frame) : (s.appendEcho f).ls = s.ls := rfl
@[simp] theorem State.appendEcho_h (f : Frame) : (s.appendEcho f).h = s.h := rfl
@[simp] theorem State.appendEcho_txLog (f : Frame) : (s.appendEcho f).txLog = s.txLog := rfl
@[simp] theorem State.appendEcho_echoLog (f : Frame) : (s.appendEcho f).echoLog = s.echoLog ++ [f] := rfl
@[simp] theorem State.appendEcho_rx (f : Frame) : (s.appendEcho f).rx = s.rx := rfl
@[simp] theorem State.appendEcho_answers (f : Frame) : (s.appendEcho f).answers = s.answers := rfl
@[simp] theorem State.appendEcho_resp (f : Frame) : (s.appendEcho f).resp = s.resp := rfl
@[simp] theorem State.appendEcho_script (f : Frame) : (s.appendEcho f).script = s.script := rfl

@[simp] theorem State.setRx_di (bs : List Byte) : (s.setRx bs).di = s.di := rfl
@[simp] theorem State.setRx_ls (bs : List Byte) : (s.setRx bs).ls = s.ls := rfl
@[simp] theorem State.setRx_h (bs : List Byte) : (s.setRx bs).h = s.h := rfl
@[simp] theorem State.setRx_txLog (bs : List Byte) : (s.setRx bs).txLog = s.txLog := rfl
@[simp] theorem State.setRx_echoLog (bs : List Byte) : (s.setRx bs).echoLog = s.echoLog := rfl
@[simp] theorem State.setRx_rx (bs : List Byte) : (s.setRx bs).rx = bs := rfl
@[simp] theorem State.setRx_answers (bs : List Byte) : (s.setRx bs).answers = s.answers := rfl
@[simp] theorem State.setRx_resp (bs : List Byte) : (s.setRx bs).resp = s.resp := rfl
@[simp] theorem State.setRx_script (bs : List Byte) : (s.setRx bs).script = s.script := rfl

@[simp] theorem State.setResp_di (r : Response) : (s.setResp r).di = s.di := rfl
@[simp] theorem State.setResp_ls (r : Response) : (s.setResp r).ls = s.ls := rfl
@[simp] theorem State.setResp_h (r : Response) : (s.setResp r).h = s.h := rfl
@[simp] theorem State.setResp_txLog (r : Response) : (s.setResp r).txLog = s.txLog := rfl
@[simp] theorem State.setResp_echoLog (r : Response) : (s.setResp r).echoLog = s.echoLog := rfl
@[simp] theorem State.setResp_rx (r : Response) : (s.setResp r).rx = s.rx := rfl
@[simp] theorem State.setResp_answers (r : Response) : (s.setResp r).answers = s.answers := rfl
@[simp] theorem State.setResp_resp (r : Response) : (s.setResp r).resp = some r := rfl
@[simp] theorem State.setResp_script (r : Response) : (s.setResp r).script = s.script := rfl

@[simp] theorem takeTurn_di (t : Turn) (rest : List Turn) : (takeTurn t rest s).di = s.di := rfl
@[simp] theorem takeTurn_ls (t : Turn) (rest : List Turn) : (takeTurn t rest s).ls = s.ls := rfl
@[simp] theorem takeTurn_h (t : Turn) (rest : List Turn) : (takeTurn t rest s).h = s.h := rfl
@[simp] theorem takeTurn_txLog (t : Turn) (rest : List Turn) : (takeTurn t rest s).txLog = s.txLog := rfl
@[simp] theorem takeTurn_echoLog (t : Turn) (rest : List Turn) : (takeTurn t rest s).echoLog = s.echoLog := rfl
@[simp] theorem takeTurn_rx (t : Turn) (rest : List Turn) : (takeTurn t rest s).rx = applyRxChange t.rx s.rx := rfl
@[simp] theorem takeTurn_answers (t : Turn) (rest : List Turn) : (takeTurn t rest s).answers = t.answers := rfl
@[simp] theorem takeTurn_resp (t : Turn) (rest : List Turn) : (takeTurn t rest s).resp = s.resp := rfl
@[simp] theorem takeTurn_script (t : Turn) (rest : List Turn) : (takeTurn t rest s).script = rest := rfl

@[simp] theorem powerOn_di : (powerOn s).di = State.reset.di := rfl
@[simp] theorem powerOn_ls : (powerOn s).ls = State.reset.ls := rfl
@[simp] theorem powerOn_h : (powerOn s).h = State.reset.h := rfl
@[simp] theorem powerOn_txLog : (powerOn s).txLog = State.reset.txLog := rfl
@[simp] theorem powerOn_echoLog : (powerOn s).echoLog = State.reset.echoLog := rfl
@[simp] theorem powerOn_rx : (powerOn s).rx = s.rx := rfl
@[simp] theorem powerOn_answers : (powerOn s).answers = s.answers := rfl
@[simp] theorem powerOn_resp : (powerOn s).resp = State.reset.resp := rfl
@[simp] theorem powerOn_script : (powerOn s).script = s.script := rfl

@[simp] theorem withFetchWord_di (nbits w : Nat) : (s.withFetchWord nbits w).di = s.di := rfl
@[simp] theorem withFetchWord_ls (nbits w : Nat) : (s.withFetchWord nbits w).ls = s.ls := rfl
@[simp] theorem withFetchWord_h (nbits w : Nat) : (s.withFetchWord nbits w).h = s.h := rfl
@[simp] theorem withFetchWord_txLog (nbits w : Nat) : (s.withFetchWord nbits w).txLog = s.txLog := rfl
@[simp] theorem withFetchWord_echoLog (nbits w : Nat) : (s.withFetchWord nbits w).echoLog = s.echoLog := rfl
@[simp] theorem withFetchWord_rx (nbits w : Nat) : (s.withFetchWord nbits w).rx = s.rx := rfl
@[simp] theorem withFetchWord_answers (nbits w : Nat) : (s.withFetchWord nbits w).answers = s.answers := rfl
@[simp] theorem withFetchWord_resp (nbits w : Nat) : (s.withFetchWord nbits w).resp = s.resp := rfl
@[simp] theorem withFetchWord_script (nbits w : Nat) : (s.withFetchWord nbits w).script = tableTurn s nbits w :: s.script := rfl

end Sys2Proof.Machine
end

