-- ==== Sys2Proof/Laws/Ops.lean ====
section
/-! SUPPORT. One lemma per shared operation: everything it can do. -/

namespace Sys2Proof.Machine

open Sys2Proof.Safety

/-! ## Responses -/

@[simp] theorem padFrame_nil : padFrame [] = #v[0, 0, 0, 0, 0, 0, 0] := by decide

theorem padFrame_drive (a b c d e : Byte) : padFrame [a, b, c, d, e] = #v[a, b, c, d, e, 0, 0] := by
  ext i hi
  simp only [padFrame, Vector.getElem_ofFn]
  match i, hi with
  | 0, _ | 1, _ | 2, _ | 3, _ | 4, _ | 5, _ | 6, _ => rfl

theorem vector5_toList (f : Vector Byte 5) : f.toList = [f[0], f[1], f[2], f[3], f[4]] := by
  apply List.ext_getElem
  · simp
  · intro i h1 h2
    simp only [Vector.length_toList] at h1
    match i, h1 with
    | 0, _ | 1, _ | 2, _ | 3, _ | 4, _ => simp

theorem blankResponse_eq (st : Status) (s : State) :
    blankResponse st s = responseBlank st (intentBits s.di) s.h := by
  simp [blankResponse, responseBlank]

theorem frameResponse_eq (sent : Bool) (f : Frame) (s : State) :
    frameResponse sent f s =
      responseFrame sent (BitVec.ofNat 3 f.length) (padFrame f) (intentBits s.di) s.h := rfl

theorem valueResponse_eq (t : IntType) (v : Int) (s : State) :
    valueResponse t v s =
      responseValue (BitVec.ofInt 32 v) (decide (t.w = .two)) (decide (t.s = .signed)) (intentBits s.di) s.h := by
  simp [valueResponse, blankResponse, responseValue]

theorem raise_eq (e : Status) (s : State) :
    raise e s = .next { s with resp := some (responseBlank e (intentBits s.di) s.h) } := by
  rw [raise, blankResponse_eq, State.setResp]

theorem respondNone_eq (s : State) :
    respondNone s = .next { s with resp := some (responseBlank .ok (intentBits s.di) s.h) } := by
  rw [respondNone, blankResponse_eq, State.setResp]

theorem respondFrame_eq (sent : Bool) (f : Frame) (s : State) :
    respondFrame sent f s = .next { s with
      resp := some (responseFrame sent (BitVec.ofNat 3 f.length) (padFrame f) (intentBits s.di) s.h) } := rfl

theorem respondValue_eq (t : IntType) (v : Int) (s : State) :
    respondValue t v s = .next { s with
      resp := some (responseValue (BitVec.ofInt 32 v) (decide (t.w = .two)) (decide (t.s = .signed))
        (intentBits s.di) s.h) } := by
  rw [respondValue, valueResponse_eq, State.setResp]

/-! ## Transport primitives and transmission -/

/-- What `send` can do: the whole frame taken and echoed, or ConnectionLost with the handle invalid and some first
bytes of the frame on TX. -/
theorem send_cases (f : Frame) (s : State) :
    (s.h = true ∧ s.answers.isOpen = true ∧ s.answers.tx = .ok ∧ send f s = .ok ((s.appendTx f).appendEcho f)) ∨
    (s.h = false ∧ send f s = .lost s) ∨
    (s.h = true ∧ s.answers.isOpen = false ∧ send f s = .lost (s.setHandle false)) ∨
    (∃ k, s.h = true ∧ s.answers.isOpen = true ∧ s.answers.tx = .fault k ∧
      send f s = .lost ((s.appendTx (f.take k)).setHandle false)) := by
  cases hh : s.h <;> cases ho : s.answers.isOpen <;> cases ht : s.answers.tx <;>
    simp [send, isOpen, txWrite, hh, ho, ht]

theorem transmit_of_ok {f : Frame} {s : State} (h : s.h = true) (ho : s.answers.isOpen = true)
    (ht : s.answers.tx = .ok) : transmit f s = respondFrame true f ((s.appendTx f).appendEcho f) := by
  simp [transmit, send, isOpen, txWrite, h, ho, ht]

theorem transmit_losesConnection (f : Frame) (s : State) (h : ¬ (s.h = true ∧ s.answers.isOpen = true ∧ s.answers.tx = .ok)) :
    ∃ s', send f s = .lost s' ∧ transmit f s = raise .connectionLost s' := by
  rcases send_cases f s with ⟨h1, h2, h3, -⟩ | ⟨-, e⟩ | ⟨-, -, e⟩ | ⟨k, -, -, -, e⟩
  · exact absurd ⟨h1, h2, h3⟩ h
  all_goals exact ⟨_, e, by simp [transmit, e]⟩

theorem transmit_spec (f : Frame) (s : State) :
    (s.h = true → s.answers.isOpen = true → s.answers.tx = .ok →
      transmit f s = .next { s with
        txLog := s.txLog ++ f, echoLog := s.echoLog ++ [f],
        resp := some (responseFrame true (BitVec.ofNat 3 f.length) (padFrame f) (intentBits s.di) true) }) ∧
    LosesConnection f s (transmit f s) := by
  refine ⟨fun h1 h2 h3 => ?_, fun h => ?_, fun h ho => ?_, fun k h ho ht => ?_⟩
  · simp [transmit_of_ok h1 h2 h3, respondFrame_eq, State.appendTx, State.appendEcho, h1]
  · simp [transmit, send, h, raise_eq]
  · simp [transmit, send, isOpen, h, ho, raise_eq, State.setHandle]
  · simp [transmit, send, isOpen, txWrite, h, ho, ht, raise_eq, State.setHandle, State.appendTx]

theorem transmitDrive_spec (f : Vector Byte 5) (s : State) : TransmitsDrive f s (transmitDrive f s) := by
  have hp : padFrame f.toList = #v[f[0], f[1], f[2], f[3], f[4], 0, 0] := by
    rw [vector5_toList, padFrame_drive]
  refine ⟨fun h1 h2 h3 => ?_, fun h => ?_, fun h ho => ?_, fun k h ho ht => ?_⟩
  · simp [transmitDrive, send, isOpen, txWrite, h1, h2, h3, respondFrame_eq, State.appendTx, State.appendEcho,
      State.recordSent, hp]
  · simp [transmitDrive, send, h, raise_eq]
  · simp [transmitDrive, send, isOpen, h, ho, raise_eq, State.setHandle]
  · simp [transmitDrive, send, isOpen, txWrite, h, ho, ht, raise_eq, State.setHandle, State.appendTx]

/-- What `RxReadExact` can do. -/
theorem rxReadExact_cases (n : Nat) (s : State) :
    (s.answers.rx = .serve ∧ n ≤ s.rx.length ∧ rxReadExact n s = .bytes (s.rx.take n) (s.setRx (s.rx.drop n))) ∨
    (s.answers.rx = .serve ∧ s.rx.length < n ∧ rxReadExact n s = .short (s.setRx [])) ∨
    (∃ k, s.answers.rx = .short k ∧ rxReadExact n s = .short (s.setRx (s.rx.drop (min k (n - 1))))) ∨
    (∃ k, s.answers.rx = .fault k ∧ rxReadExact n s = .fault (s.setRx (s.rx.drop k))) ∨
    (s.answers.rx = .never ∧ rxReadExact n s = .never) := by
  cases h : s.answers.rx <;> simp [rxReadExact, h]
  by_cases hn : n ≤ s.rx.length <;> simp [hn]
  omega

/-! ## The tracker -/

theorem driveUpdate_of_frame {s : State} {f : Vector Byte 5} (h : driveFrame cfg s.di = .ok f) :
    driveUpdate s = if s.ls.valid = true ∧ s.ls.frame = f then respondNone s else transmitDrive f s := by
  rw [driveUpdate, h]

theorem directionEvent_same {d : Direction} {v : Bool} {s : State} (h : getFlag s.di d = v) :
    directionEvent d v s = respondNone (s.setDi (setFlag s.di d v)) := by
  rw [directionEvent, if_pos h]

theorem directionEvent_change {d : Direction} {v : Bool} {s : State} (h : getFlag s.di d ≠ v) :
    directionEvent d v s = driveUpdate (s.setDi (setFlag s.di d v)) := by
  rw [directionEvent, if_neg h]

@[simp] theorem getFlag_setFlag_self (di : DriveIntent) (d : Direction) (v : Bool) :
    getFlag (setFlag di d v) d = v := by cases d <;> rfl

theorem getFlag_setFlag_other {d e : Direction} (di : DriveIntent) (v : Bool) (h : e ≠ d) :
    getFlag (setFlag di d v) e = getFlag di e := by cases d <;> cases e <;> first | rfl | exact absurd rfl h

theorem setFlag_same {di : DriveIntent} {d : Direction} {v : Bool} (h : getFlag di d = v) : setFlag di d v = di := by
  cases d <;> cases di <;> cases h <;> rfl

end Sys2Proof.Machine
end

