-- ==== Sys2Proof/Laws/Codec.lean ====
section
/-! SUPPORT. The Byte Codec and the drive frame: what each function answers. -/

namespace Sys2Proof.Machine

theorem inRange_iff (t : IntType) (v : Int) : inRange t v = true ↔ rangeLo t ≤ v ∧ v ≤ rangeHi t := by
  simp [inRange]

theorem encodeInt_outOfRange {t : IntType} {v : Int} (h : ¬ (rangeLo t ≤ v ∧ v ≤ rangeHi t)) :
    encodeInt t v = .error .rangeError := by
  rw [encodeInt, if_neg (by rwa [inRange_iff])]

theorem encodeInt_one {s : Signedness} {v : Int} (h : rangeLo ⟨.one, s⟩ ≤ v ∧ v ≤ rangeHi ⟨.one, s⟩) :
    encodeInt ⟨.one, s⟩ v = .ok [BitVec.ofInt 8 v] := by
  rw [encodeInt, if_pos (by rwa [inRange_iff])]

theorem encodeInt_two {s : Signedness} {v : Int} (h : rangeLo ⟨.two, s⟩ ≤ v ∧ v ≤ rangeHi ⟨.two, s⟩) :
    encodeInt ⟨.two, s⟩ v = .ok (bigEndian (BitVec.ofInt 16 v)) := by
  rw [encodeInt, if_pos (by rwa [inRange_iff])]

theorem toNat_high (u : BitVec 16) : (u.extractLsb' 8 8).toNat = u.toNat / 256 := by
  have := u.isLt
  rw [BitVec.extractLsb'_toNat, Nat.shiftRight_eq_div_pow]
  omega

theorem toNat_low (u : BitVec 16) : (u.extractLsb' 0 8).toNat = u.toNat % 256 := by
  rw [BitVec.extractLsb'_toNat]
  simp

theorem high_append_low (u : BitVec 16) : u.extractLsb' 8 8 ++ u.extractLsb' 0 8 = u := by
  apply BitVec.eq_of_toNat_eq
  have := u.isLt
  rw [BitVec.toNat_append, toNat_high, toNat_low, Nat.shiftLeft_eq, Nat.mul_comm,
    show u.toNat / 256 = u.toNat / 2 ^ 8 from rfl, ← Nat.two_pow_add_eq_or_of_lt (by omega)]
  omega

theorem append_high (a b : Byte) : (a ++ b : BitVec 16).extractLsb' 8 8 = a := by
  apply BitVec.eq_of_toNat_eq
  have := a.isLt
  have := b.isLt
  rw [toNat_high, BitVec.toNat_append, Nat.shiftLeft_eq, Nat.mul_comm, ← Nat.two_pow_add_eq_or_of_lt (by omega)]
  omega

theorem append_low (a b : Byte) : (a ++ b : BitVec 16).extractLsb' 0 8 = b := by
  apply BitVec.eq_of_toNat_eq
  have := a.isLt
  have := b.isLt
  rw [toNat_low, BitVec.toNat_append, Nat.shiftLeft_eq, Nat.mul_comm, ← Nat.two_pow_add_eq_or_of_lt (by omega)]
  omega

theorem encodeDrive_ok {vr vl : Int} (c : Cfg) (hr : -32768 ≤ vr ∧ vr ≤ 32767) (hl : -32768 ≤ vl ∧ vl ≤ 32767) :
    encodeDrive c vr vl = .ok (driveBytes c (BitVec.ofInt 16 vr) (BitVec.ofInt 16 vl)) := by
  have h1 : encodeInt typeS16 vr = _ := encodeInt_two (s := .signed) hr
  have h2 : encodeInt typeS16 vl = _ := encodeInt_two (s := .signed) hl
  simp [encodeDrive, h1, h2, bigEndian, driveBytes]

theorem encodeDrive_outOfRange {vr vl : Int} (c : Cfg)
    (h : ¬ (-32768 ≤ vr ∧ vr ≤ 32767 ∧ -32768 ≤ vl ∧ vl ≤ 32767)) : encodeDrive c vr vl = .error .rangeError := by
  by_cases hr : -32768 ≤ vr ∧ vr ≤ 32767
  · have hl : ¬ (-32768 ≤ vl ∧ vl ≤ 32767) := fun hl => h ⟨hr.1, hr.2, hl⟩
    have h2 : encodeInt typeS16 vl = _ := encodeInt_outOfRange (t := typeS16) hl
    simp [encodeDrive, h2]
  · have h1 : encodeInt typeS16 vr = _ := encodeInt_outOfRange (t := typeS16) hr
    simp [encodeDrive, h1]

theorem clamp16_inRange (x : Int) : -32768 ≤ clamp16 x ∧ clamp16 x ≤ 32767 := by
  unfold clamp16
  split
  · omega
  · split <;> omega

/-- The drive update always has a frame to compare: the clamp keeps RangeError away (R142). -/
theorem driveFrame_bytes (c : Cfg) (di : DriveIntent) :
    driveFrame c di = .ok (driveBytes c
      (BitVec.ofInt 16 (wheelSpeeds (driveVelocity c di) (driveRotation c di)).1)
      (BitVec.ofInt 16 (wheelSpeeds (driveVelocity c di) (driveRotation c di)).2)) :=
  encodeDrive_ok c (clamp16_inRange _) (clamp16_inRange _)

theorem driveFrame_opcode {c : Cfg} {di : DriveIntent} {f : Vector Byte 5} (h : driveFrame c di = .ok f) :
    f[0] = c.opDrive := by
  rw [driveFrame_bytes] at h
  cases h
  rfl

theorem encodeDrive_opcode {c : Cfg} {vr vl : Int} {f : Vector Byte 5} (h : encodeDrive c vr vl = .ok f) :
    f[0] = c.opDrive := by
  unfold encodeDrive at h
  split at h
  · cases h; rfl
  · cases h

theorem driveUpdate_spec (s : State) :
    ∃ f, driveFrame cfg s.di = .ok f ∧
      driveUpdate s = if s.ls.valid = true ∧ s.ls.frame = f then respondNone s else transmitDrive f s :=
  ⟨_, driveFrame_bytes _ _, driveUpdate_of_frame (driveFrame_bytes _ _)⟩

/-- `decodeInt` answers exactly when the byte count is the width (R82). -/
theorem decodeInt_cases (t : IntType) (bs : List Byte) :
    (bs.length = widthBytes t.w ∧ decodeInt t bs = .ok (codeValue t (frameNumber bs))) ∨
    (bs.length ≠ widthBytes t.w ∧ decodeInt t bs = .error .formatError) := by
  obtain ⟨w, s⟩ := t
  cases w <;> match bs with
  | [] => simp [decodeInt, widthBytes]
  | [b0] => simp [decodeInt, widthBytes, frameNumber]
  | [b0, b1] => simp [decodeInt, widthBytes, frameNumber]
  | b0 :: b1 :: b2 :: more => simp [decodeInt, widthBytes]

end Sys2Proof.Machine
end

