-- ==== Sys2Proof/Laws/Decode.lean ====
section
/-! SUPPORT. The fields of a command word, and the operand fields of each format. -/

namespace Sys2Proof

open Sys2Proof.Machine

@[simp] theorem fieldsOf_packFields (f : Fields) : fieldsOf (packFields f) = f := by
  obtain ⟨op, a, b⟩ := f
  have := op.isLt
  have := a.isLt
  have := b.isLt
  have hn : (op ++ a ++ b : BitVec 72).toNat = op.toNat * 2 ^ 64 + a.toNat * 2 ^ 32 + b.toNat := by
    rw [BitVec.toNat_append, BitVec.toNat_append, Nat.shiftLeft_eq, Nat.shiftLeft_eq, Nat.mul_comm _ (2 ^ 32),
      Nat.mul_comm _ (2 ^ 32), ← Nat.two_pow_add_eq_or_of_lt (by omega), ← Nat.two_pow_add_eq_or_of_lt (by omega)]
    omega
  simp only [fieldsOf, packFields, Fields.mk.injEq]
  refine ⟨?_, ?_, ?_⟩ <;>
  · apply BitVec.eq_of_toNat_eq
    rw [BitVec.extractLsb'_toNat, hn, Nat.shiftRight_eq_div_pow]
    omega

@[simp] theorem packFields_fieldsOf (w : CommandWord) : packFields (fieldsOf w) = w := by
  have := w.isLt
  apply BitVec.eq_of_toNat_eq
  simp only [packFields, fieldsOf]
  rw [BitVec.toNat_append, BitVec.toNat_append, Nat.shiftLeft_eq, Nat.shiftLeft_eq, Nat.mul_comm _ (2 ^ 32),
    Nat.mul_comm _ (2 ^ 32), ← Nat.two_pow_add_eq_or_of_lt (BitVec.isLt _), ← Nat.two_pow_add_eq_or_of_lt (BitVec.isLt _)]
  simp only [BitVec.extractLsb'_toNat, Nat.shiftRight_eq_div_pow]
  omega

theorem packFields_toNat (f : Fields) :
    (packFields f).toNat = f.op.toNat * 2 ^ 64 + f.a.toNat * 2 ^ 32 + f.b.toNat := by
  have := f.op.isLt
  have := f.a.isLt
  have := f.b.isLt
  rw [packFields, BitVec.toNat_append, BitVec.toNat_append, Nat.shiftLeft_eq, Nat.shiftLeft_eq, Nat.mul_comm _ (2 ^ 32),
    Nat.mul_comm _ (2 ^ 32), ← Nat.two_pow_add_eq_or_of_lt (by omega), ← Nat.two_pow_add_eq_or_of_lt (by omega)]
  omega

@[simp] theorem typeOf_typeBits (t : IntType) : typeOf (typeBits t) = t := by
  obtain ⟨w, s⟩ := t
  cases w <;> cases s <;> decide

/-- A mask over a word is a mask over each field. -/
theorem packFields_and (f g : Fields) :
    packFields f &&& packFields g = packFields ⟨f.op &&& g.op, f.a &&& g.a, f.b &&& g.b⟩ := by
  show (f.op ++ f.a ++ f.b : BitVec (8 + 32 + 32)) &&& (g.op ++ g.a ++ g.b : BitVec (8 + 32 + 32)) = _
  rw [BitVec.and_append, BitVec.and_append]
  rfl

theorem packFields_inj {f g : Fields} : packFields f = packFields g ↔ f = g :=
  ⟨fun h => by rw [← fieldsOf_packFields f, h, fieldsOf_packFields], congrArg _⟩

end Sys2Proof
end

