-- ==== Sys2Proof/Laws/Exec.lean ====
section
/-! SUPPORT. What transmissions, the drive update, READ and every instruction can do: the shapes of their outcomes. -/

namespace Sys2Proof.Machine

open Sys2Proof.Safety

/-- A transmission: the frame on TX and ECHO, or ConnectionLost and at most a first part of it on TX. -/
theorem transmit_cases (f : Frame) (s : State) :
    (s.h = true ∧ s.answers.isOpen = true ∧ s.answers.tx = .ok ∧
      transmit f s = .next { s with
        txLog := s.txLog ++ f, echoLog := s.echoLog ++ [f],
        resp := some (responseFrame true (BitVec.ofNat 3 f.length) (padFrame f) (intentBits s.di) s.h) }) ∨
    (∃ m, (s.h = false ∨ s.answers.isOpen = false ∨ ∃ k, s.answers.tx = .fault k) ∧ (s.answers.tx = .ok → m = 0) ∧
      transmit f s = .next { s with
        h := false, txLog := s.txLog ++ f.take m,
        resp := some (responseBlank .connectionLost (intentBits s.di) false) }) := by
  obtain ⟨h1, h2, h3, h4⟩ := transmit_spec f s
  cases hh : s.h with
  | false => exact .inr ⟨0, .inl rfl, fun _ => rfl, by rw [h2 hh]; simp [← hh]⟩
  | true =>
    cases ho : s.answers.isOpen with
    | false => exact .inr ⟨0, .inr (.inl rfl), fun _ => rfl, by rw [h3 hh ho]; simp⟩
    | true =>
      cases ht : s.answers.tx with
      | ok => exact .inl ⟨rfl, rfl, rfl, by rw [h1 hh ho ht, ← hh]⟩
      | fault k => exact .inr ⟨k, .inr (.inr ⟨k, rfl⟩), (by simp), h4 k hh ho ht⟩

/-- The same of a Drive frame, which `LS` then holds. -/
theorem transmitDrive_cases (f : Vector Byte 5) (s : State) :
    (s.h = true ∧ s.answers.isOpen = true ∧ s.answers.tx = .ok ∧
      transmitDrive f s = .next { s with
        txLog := s.txLog ++ f.toList, echoLog := s.echoLog ++ [f.toList], ls := { valid := true, frame := f },
        resp := some (responseFrame true 5 #v[f[0], f[1], f[2], f[3], f[4], 0, 0] (intentBits s.di) s.h) }) ∨
    (∃ m, (s.h = false ∨ s.answers.isOpen = false ∨ ∃ k, s.answers.tx = .fault k) ∧ (s.answers.tx = .ok → m = 0) ∧
      transmitDrive f s = .next { s with
        h := false, txLog := s.txLog ++ f.toList.take m,
        resp := some (responseBlank .connectionLost (intentBits s.di) false) }) := by
  obtain ⟨h1, h2, h3, h4⟩ := transmitDrive_spec f s
  cases hh : s.h with
  | false => exact .inr ⟨0, .inl rfl, fun _ => rfl, by rw [h2 hh]; simp [← hh]⟩
  | true =>
    cases ho : s.answers.isOpen with
    | false => exact .inr ⟨0, .inr (.inl rfl), fun _ => rfl, by rw [h3 hh ho]; simp⟩
    | true =>
      cases ht : s.answers.tx with
      | ok => exact .inl ⟨rfl, rfl, rfl, by rw [h1 hh ho ht, ← hh]⟩
      | fault k => exact .inr ⟨k, .inr (.inr ⟨k, rfl⟩), (by simp), h4 k hh ho ht⟩

/-- A drive update: nothing to send, or a transmission of the frame of the flags. -/
theorem driveUpdate_cases (s : State) :
    (∃ f, driveFrame cfg s.di = .ok f ∧ s.ls.valid = true ∧ s.ls.frame = f ∧ driveUpdate s = respondNone s) ∨
    (∃ f, driveFrame cfg s.di = .ok f ∧ ¬ (s.ls.valid = true ∧ s.ls.frame = f) ∧
      driveUpdate s = transmitDrive f s) := by
  obtain ⟨f, hf, hu⟩ := driveUpdate_spec s
  by_cases h : s.ls.valid = true ∧ s.ls.frame = f
  · exact .inl ⟨f, hf, h.1, h.2, by rw [hu, if_pos h]⟩
  · exact .inr ⟨f, hf, h, by rw [hu, if_neg h]⟩

/-- What READ can do. -/
theorem execRead_cases (t : IntType) (s : State) :
    (s.h = false ∧ execRead t s = raise .connectionLost s) ∨
    (s.h = true ∧ s.answers.isOpen = false ∧ execRead t s = raise .connectionLost (s.setHandle false)) ∨
    (s.h = true ∧ s.answers.isOpen = true ∧
      ((∃ v, s.answers.rx = .serve ∧ rxReadExact (widthBytes t.w) s =
          .bytes (s.rx.take (widthBytes t.w)) (s.setRx (s.rx.drop (widthBytes t.w))) ∧
          execRead t s = respondValue t v (s.setRx (s.rx.drop (widthBytes t.w)))) ∨
        (∃ rest, rxReadExact (widthBytes t.w) s = .short (s.setRx rest) ∧
          execRead t s = raise .formatError ((s.setRx rest).setHandle false)) ∨
        (∃ k rest, s.answers.rx = .fault k ∧ rxReadExact (widthBytes t.w) s = .fault (s.setRx rest) ∧
          execRead t s = raise .connectionLost ((s.setRx rest).setHandle false)) ∨
        (s.answers.rx = .never ∧ execRead t s = .fault .readBlocked))) := by
  cases hh : s.h with
  | false => exact .inl ⟨rfl, by simp [execRead, hh]⟩
  | true =>
    cases ho : s.answers.isOpen with
    | false => exact .inr (.inl ⟨rfl, rfl, by simp [execRead, isOpen, hh, ho]⟩)
    | true =>
      refine .inr (.inr ⟨rfl, rfl, ?_⟩)
      rcases rxReadExact_cases (widthBytes t.w) s with ⟨ha, hn, e⟩ | ⟨_, _, e⟩ | ⟨k, _, e⟩ | ⟨k, ha, e⟩ | ⟨ha, e⟩
      · rcases decodeInt_cases t (s.rx.take (widthBytes t.w)) with ⟨_, hd⟩ | ⟨hl, _⟩
        · exact .inl ⟨_, ha, e, by simp [execRead, isOpen, hh, ho, e, hd]; rfl⟩
        · exact absurd (by simp [hn]) hl
      · exact .inr (.inl ⟨_, e, by simp [execRead, isOpen, hh, ho, e]⟩)
      · exact .inr (.inl ⟨_, e, by simp [execRead, isOpen, hh, ho, e]⟩)
      · exact .inr (.inr (.inl ⟨k, _, ha, e, by simp [execRead, isOpen, hh, ho, e]⟩))
      · exact .inr (.inr (.inr ⟨ha, by simp [execRead, isOpen, hh, ho, e]⟩))

/-- The shapes of an instruction's outcome: a pure answer, RangeError before a transmission, a key that does nothing,
a transmission, a Drive transmission, a drive update, READ, and the two of the handle. -/
theorem exec_shapes (i : Instr) (s : State) :
    (isPure i = true ∧
      ((∃ f : Frame, f ≠ [] ∧ f.length ≤ 7 ∧ exec i s = respondFrame false f s) ∨
       (∃ t v, exec i s = respondValue t v s) ∨
       (exec i s = raise .rangeError s ∧
        ((∃ v t, i = .encint v t ∧ ¬ (rangeLo t ≤ v.toInt ∧ v.toInt ≤ rangeHi t)) ∨
          ∃ vr vl, i = .encDrive vr vl ∧ ¬ speedsInRange vr.toInt vl.toInt)) ∨
       (exec i s = raise .formatError s ∧ ∃ bs t, i = .decint bs t ∧ bs.length ≠ widthBytes t.w))) ∨
    (∃ vr vl, i = .txDrive vr vl ∧ ¬ speedsInRange vr.toInt vl.toInt ∧ exec i s = raise .rangeError s) ∨
    (∃ sym, (i = .keyPress sym ∨ i = .keyRelease sym) ∧ exec i s = respondNone s) ∨
    (∃ k, exec i s = transmit (frameOf cfg k) s ∧ isPure i = false ∧ i ≠ .attach ∧ i ≠ .detach ∧
      (∀ t, i ≠ .read t) ∧ ∀ sym, directionOf sym ≠ none → i ≠ .keyPress sym ∧ i ≠ .keyRelease sym) ∨
    (∃ f, f[0] = (145 : Byte) ∧ (∃ a b, f = driveBytes cfg a b) ∧ exec i s = transmitDrive f s ∧
      ((∃ vr vl, i = .txDrive vr vl) ∨ ∃ vr vl, i = .wireDrive vr vl)) ∨
    (∃ sym d v, directionOf sym = some d ∧ (i = .keyPress sym ∧ v = true ∨ i = .keyRelease sym ∧ v = false) ∧
      getFlag s.di d ≠ v ∧ exec i s = driveUpdate (s.setDi (setFlag s.di d v))) ∨
    (∃ t, i = .read t ∧ exec i s = execRead t s) ∨
    (i = .attach ∧ exec i s = respondNone (s.forgetSent.setHandle true)) ∨
    (i = .detach ∧ exec i s = respondNone ((s.setHandle false).forgetSent)) := by
  have enc : ∀ k, frameOf cfg k ≠ [] ∧ (frameOf cfg k).length ≤ 7 := by intro k; cases k <;> decide
  have dir : ∀ d v, (getFlag s.di d = v ∧ directionEvent d v s = respondNone s) ∨
      (getFlag s.di d ≠ v ∧ directionEvent d v s = driveUpdate (s.setDi (setFlag s.di d v))) := by
    intro d v
    by_cases h : getFlag s.di d = v
    · exact .inl ⟨h, by rw [directionEvent_same h, setFlag_same h]; rfl⟩
    · exact .inr ⟨h, directionEvent_change h⟩
  cases i with
  | attach => simp [exec, execAttach]
  | detach => simp [exec, execDetach]
  | encPassive => exact .inl ⟨rfl, .inl ⟨_, (enc .passive).1, (enc .passive).2, rfl⟩⟩
  | encSafe => exact .inl ⟨rfl, .inl ⟨_, (enc .safe).1, (enc .safe).2, rfl⟩⟩
  | encFull => exact .inl ⟨rfl, .inl ⟨_, (enc .full).1, (enc .full).2, rfl⟩⟩
  | encClean => exact .inl ⟨rfl, .inl ⟨_, (enc .clean).1, (enc .clean).2, rfl⟩⟩
  | encDock => exact .inl ⟨rfl, .inl ⟨_, (enc .dock).1, (enc .dock).2, rfl⟩⟩
  | encReset => exact .inl ⟨rfl, .inl ⟨_, (enc .reset).1, (enc .reset).2, rfl⟩⟩
  | encBeep => exact .inl ⟨rfl, .inl ⟨_, (enc .beep).1, (enc .beep).2, rfl⟩⟩
  | encDrive vr vl =>
    refine .inl ⟨rfl, ?_⟩
    by_cases h : speedsInRange vr.toInt vl.toInt
    · exact .inl ⟨(driveBytes cfg (BitVec.ofInt 16 vr.toInt) (BitVec.ofInt 16 vl.toInt)).toList, by simp [driveBytes],
        by simp, by simp only [exec, execEncDrive, encodeOperands, operandValue, encodeDrive_ok cfg h.1 h.2]; rfl⟩
    · refine .inr (.inr (.inl ⟨?_, .inr ⟨_, _, rfl, h⟩⟩))
      simp only [exec, execEncDrive, encodeOperands, operandValue,
        encodeDrive_outOfRange cfg fun h' => h ⟨⟨h'.1, h'.2.1⟩, h'.2.2⟩]
      rfl
  | txPassive => exact .inr (.inr (.inr (.inl ⟨.passive, rfl, rfl, by simp⟩)))
  | txSafe => exact .inr (.inr (.inr (.inl ⟨.safe, rfl, rfl, by simp⟩)))
  | txFull => exact .inr (.inr (.inr (.inl ⟨.full, rfl, rfl, by simp⟩)))
  | txClean => exact .inr (.inr (.inr (.inl ⟨.clean, rfl, rfl, by simp⟩)))
  | txDock => exact .inr (.inr (.inr (.inl ⟨.dock, rfl, rfl, by simp⟩)))
  | txReset => exact .inr (.inr (.inr (.inl ⟨.reset, rfl, rfl, by simp⟩)))
  | txBeep => exact .inr (.inr (.inr (.inl ⟨.beep, rfl, rfl, by simp⟩)))
  | wirePassive => exact .inr (.inr (.inr (.inl ⟨.passive, rfl, rfl, by simp⟩)))
  | wireSafe => exact .inr (.inr (.inr (.inl ⟨.safe, rfl, rfl, by simp⟩)))
  | wireFull => exact .inr (.inr (.inr (.inl ⟨.full, rfl, rfl, by simp⟩)))
  | wireClean => exact .inr (.inr (.inr (.inl ⟨.clean, rfl, rfl, by simp⟩)))
  | wireDock => exact .inr (.inr (.inr (.inl ⟨.dock, rfl, rfl, by simp⟩)))
  | wireReset => exact .inr (.inr (.inr (.inl ⟨.reset, rfl, rfl, by simp⟩)))
  | wireBeep => exact .inr (.inr (.inr (.inl ⟨.beep, rfl, rfl, by simp⟩)))
  | txDrive vr vl =>
    by_cases h : speedsInRange vr.toInt vl.toInt
    · exact .inr (.inr (.inr (.inr (.inl ⟨driveBytes cfg (BitVec.ofInt 16 vr.toInt) (BitVec.ofInt 16 vl.toInt), rfl,
        ⟨_, _, rfl⟩, by simp only [exec, execTxDrive, encodeOperands, operandValue, encodeDrive_ok cfg h.1 h.2],
        .inl ⟨_, _, rfl⟩⟩))))
    · refine .inr (.inl ⟨_, _, rfl, h, ?_⟩)
      simp only [exec, execTxDrive, encodeOperands, operandValue,
        encodeDrive_outOfRange cfg fun h' => h ⟨⟨h'.1, h'.2.1⟩, h'.2.2⟩]
  | wireDrive vr vl =>
    exact .inr (.inr (.inr (.inr (.inl ⟨_, rfl, ⟨_, _, rfl⟩, rfl, .inr ⟨_, _, rfl⟩⟩))))
  | keyPress sym =>
    cases hd : directionOf sym with
    | some d =>
      rcases dir d true with ⟨-, e⟩ | ⟨h, e⟩
      · exact .inr (.inr (.inl ⟨sym, .inl rfl, by simp only [exec, execKeyPress, hd, e]⟩))
      · exact .inr (.inr (.inr (.inr (.inr (.inl ⟨sym, d, true, hd, .inl ⟨rfl, rfl⟩, h, by
          simp only [exec, execKeyPress, hd, e]⟩)))))
    | none =>
      cases hk : cfg.keymap sym with
      | some k =>
        refine .inr (.inr (.inr (.inl ⟨k, by simp only [exec, execKeyPress, hd, hk], rfl, by simp, by simp, by simp,
          ?_⟩)))
        intro sym' h'
        refine ⟨fun e => h' ?_, by simp⟩
        cases e
        exact hd
      | none => exact .inr (.inr (.inl ⟨sym, .inl rfl, by simp only [exec, execKeyPress, hd, hk]⟩))
  | keyRelease sym =>
    cases hd : directionOf sym with
    | some d =>
      rcases dir d false with ⟨-, e⟩ | ⟨h, e⟩
      · exact .inr (.inr (.inl ⟨sym, .inr rfl, by simp only [exec, execKeyRelease, hd, e]⟩))
      · exact .inr (.inr (.inr (.inr (.inr (.inl ⟨sym, d, false, hd, .inr ⟨rfl, rfl⟩, h, by
          simp only [exec, execKeyRelease, hd, e]⟩)))))
    | none => exact .inr (.inr (.inl ⟨sym, .inr rfl, by simp only [exec, execKeyRelease, hd]⟩))
  | read t => exact .inr (.inr (.inr (.inr (.inr (.inr (.inl ⟨t, rfl, rfl⟩))))))
  | encint v t =>
    refine .inl ⟨rfl, ?_⟩
    by_cases h : rangeLo t ≤ v.toInt ∧ v.toInt ≤ rangeHi t
    · obtain ⟨w, sg⟩ := t
      cases w
      · exact .inl ⟨[BitVec.ofInt 8 v.toInt], by simp, by simp, by
          simp only [exec, execEncint, operandValue, encodeInt_one h]; rfl⟩
      · exact .inl ⟨bigEndian (BitVec.ofInt 16 v.toInt), by simp [bigEndian], by simp [bigEndian], by
          simp only [exec, execEncint, operandValue, encodeInt_two h]; rfl⟩
    · exact .inr (.inr (.inl ⟨by simp only [exec, execEncint, operandValue, encodeInt_outOfRange h]; rfl,
        .inl ⟨_, _, rfl, h⟩⟩))
  | decint bs t =>
    refine .inl ⟨rfl, ?_⟩
    rcases decodeInt_cases t bs with ⟨_, e⟩ | ⟨h, e⟩
    · exact .inr (.inl ⟨t, codeValue t (frameNumber bs), by simp only [exec, execDecint, e]⟩)
    · exact .inr (.inr (.inr ⟨by simp only [exec, execDecint, e], _, _, rfl, h⟩))

/-! ## The step -/

/-- What a step does: nothing with an empty script, else the oldest turn's instruction or what its signal does that is
no instruction. -/
theorem step_cases (s : State) :
    (s.script = [] ∧ step s = .next s) ∨
    (∃ t rest i, s.script = t :: rest ∧ decode t.signal = .ok i ∧ step s = exec i (takeTurn t rest s)) ∨
    (∃ t rest e, s.script = t :: rest ∧ decode t.signal = .error e ∧ step s = undecoded e (takeTurn t rest s)) := by
  cases hs : s.script with
  | nil => exact .inl ⟨rfl, by simp [step, hs]⟩
  | cons t rest =>
    cases hd : decode t.signal with
    | ok i => exact .inr (.inl ⟨t, rest, i, rfl, hd, by simp [step, hs, hd]⟩)
    | error e => exact .inr (.inr ⟨t, rest, e, rfl, hd, by simp [step, hs, hd]⟩)

theorem undecoded_cases (e : DecodeError) (s : State) :
    (e ≠ .notAFrame ∧ e ≠ .resetInput ∧ undecoded e s = raise .illegalCommand s) ∨
    (e = .notAFrame ∧ undecoded e s = .refused .noSuchFrame) ∨
    (e = .resetInput ∧ undecoded e s = .next (powerOn s)) := by
  cases e <;> simp [undecoded]

/-- Only the reset input decodes to reset. -/
theorem decode_resetInput {g : Signal} (h : decode g = .error .resetInput) : g = .reset := by
  cases g with
  | reset => rfl
  | frame bs =>
    simp only [decode, decodeWhole] at h
    split at h <;> cases h
  | command w =>
    simp only [decode, decodeCommand, decodeFields, formatN, formatD, formatK, formatR, formatE, formatX] at h
    split at h <;> (try split at h) <;> (try split at h) <;> cases h

end Sys2Proof.Machine
end

