-- ==== Sys2Proof/Laws/PerInstr.lean ====
section
/-! SUPPORT. The family TableRow: what `encode` gives an instruction stands in the instruction's row of the opcode
table. One lemma per constructor. -/

namespace Sys2Proof.Laws.TableRow

open Sys2Proof.Machine

/-- A signal has the row's width, and its bits under the row's mask are the row's `match`. -/
def inRow (i : Instr) : Signal → Bool
  | .command w => rowSelects (tableRow i) w && rowConstraint i w
  | .frame bs =>
    decide ((tableRow i).width = 8 * bs.length ∧ frameNumber bs &&& (tableRow i).mask = (tableRow i).bits)
  | .reset => false

/-- What encodes a well-formed instruction stands in its row. -/
def Statement (i : Instr) : Prop := i.wf = true → inRow i (encode i) = true

theorem attach : Statement .attach := by unfold Statement; decide
theorem detach : Statement .detach := by unfold Statement; decide
theorem encPassive : Statement .encPassive := by unfold Statement; decide
theorem encSafe : Statement .encSafe := by unfold Statement; decide
theorem encFull : Statement .encFull := by unfold Statement; decide
theorem encClean : Statement .encClean := by unfold Statement; decide
theorem encDock : Statement .encDock := by unfold Statement; decide
theorem encReset : Statement .encReset := by unfold Statement; decide
theorem encBeep : Statement .encBeep := by unfold Statement; decide
theorem txPassive : Statement .txPassive := by unfold Statement; decide
theorem txSafe : Statement .txSafe := by unfold Statement; decide
theorem txFull : Statement .txFull := by unfold Statement; decide
theorem txClean : Statement .txClean := by unfold Statement; decide
theorem txDock : Statement .txDock := by unfold Statement; decide
theorem txReset : Statement .txReset := by unfold Statement; decide
theorem txBeep : Statement .txBeep := by unfold Statement; decide
theorem wirePassive : Statement .wirePassive := by unfold Statement; decide
theorem wireSafe : Statement .wireSafe := by unfold Statement; decide
theorem wireFull : Statement .wireFull := by unfold Statement; decide
theorem wireClean : Statement .wireClean := by unfold Statement; decide
theorem wireDock : Statement .wireDock := by unfold Statement; decide
theorem wireReset : Statement .wireReset := by unfold Statement; decide
theorem wireBeep : Statement .wireBeep := by unfold Statement; decide

/-- The mask and the `match` of a row, field by field. -/
theorem selects_fields {r : Row} {f m b : Fields} (hw : r.width = 72) (hm : BitVec.ofNat 72 r.mask = packFields m)
    (hb : BitVec.ofNat 72 r.bits = packFields b) :
    rowSelects r (packFields f) = true ↔ f.op &&& m.op = b.op ∧ f.a &&& m.a = b.a ∧ f.b &&& m.b = b.b := by
  rw [rowSelects, decide_eq_true_iff, hm, hb, packFields_and, packFields_inj, Fields.mk.injEq]
  exact and_iff_right hw

/-- A command word in its row, from its fields. -/
theorem inRow_of_fields {i : Instr} {f m b : Fields} (r : Row) (hr : tableRow i = r) (hw : r.width = 72)
    (hm : BitVec.ofNat 72 r.mask = packFields m) (hb : BitVec.ofNat 72 r.bits = packFields b)
    (hf : f.op &&& m.op = b.op ∧ f.a &&& m.a = b.a ∧ f.b &&& m.b = b.b)
    (hc : rowConstraint i (packFields f) = true) : inRow i (.command (packFields f)) = true := by
  rw [inRow, Bool.and_eq_true, hr]
  exact ⟨(selects_fields hw hm hb).2 hf, hc⟩

theorem encDrive (vr vl : BitVec 32) : Statement (.encDrive vr vl) := fun _ =>
  inRow_of_fields (m := ⟨0xFF, 0, 0⟩) (b := ⟨0x17, 0, 0⟩) ⟨72, 0x170000000000000000, 0xFF0000000000000000⟩ rfl rfl
    (by decide) (by decide) (by simp) rfl

theorem txDrive (vr vl : BitVec 32) : Statement (.txDrive vr vl) := fun _ =>
  inRow_of_fields (m := ⟨0xFF, 0, 0⟩) (b := ⟨0x27, 0, 0⟩) ⟨72, 0x270000000000000000, 0xFF0000000000000000⟩ rfl rfl
    (by decide) (by decide) (by simp) rfl

theorem keyPress (sym : BitVec 4) : Statement (.keyPress sym) := by
  revert sym; unfold Statement; decide

theorem keyRelease (sym : BitVec 4) : Statement (.keyRelease sym) := by
  revert sym; unfold Statement; decide

theorem read (t : IntType) : Statement (.read t) := by
  obtain ⟨w, s⟩ := t
  unfold Statement
  cases w <;> cases s <;> decide

theorem typeBits_masked (t : IntType) : typeBits t &&& 0xFFFFFFFC = 0 := by
  obtain ⟨w, s⟩ := t
  cases w <;> cases s <;> decide

theorem encint (value : BitVec 32) (t : IntType) : Statement (.encint value t) := fun _ =>
  inRow_of_fields (m := ⟨0xFF, 0, 0xFFFFFFFC⟩) (b := ⟨0x50, 0, 0⟩) ⟨72, 0x500000000000000000, 0xFF00000000FFFFFFFC⟩
    rfl rfl (by decide) (by decide) ⟨by simp, by simp, typeBits_masked t⟩ rfl

/-- The selector field of DECINT for each legal count. -/
theorem countBits (n : Nat) (hn : n ≤ 4) (t : IntType) :
    (BitVec.ofNat 32 (4 * n) + typeBits t) &&& 0xFFFFFFE0 = 0 ∧
    ((BitVec.ofNat 32 (4 * n) + typeBits t).extractLsb' 2 3).toNat = n := by
  obtain ⟨w, s⟩ := t
  match n, hn with
  | 0, _ | 1, _ | 2, _ | 3, _ | 4, _ => cases w <;> cases s <;> decide

/-- `n` stands in the word where it stands in `B`. -/
theorem countField (f : Fields) : (packFields f).extractLsb' 2 3 = f.b.extractLsb' 2 3 := by
  have := f.b.isLt
  apply BitVec.eq_of_toNat_eq
  rw [BitVec.extractLsb'_toNat, BitVec.extractLsb'_toNat, packFields_toNat, Nat.shiftRight_eq_div_pow,
    Nat.shiftRight_eq_div_pow]
  omega

theorem decint (bs : List Byte) (t : IntType) : Statement (.decint bs t) := fun h => by
  have hn : bs.length ≤ 4 := by simpa [Instr.wf] using h
  refine inRow_of_fields (m := ⟨0xFF, 0, 0xFFFFFFE0⟩) (b := ⟨0x51, 0, 0⟩)
    ⟨72, 0x510000000000000000, 0xFF00000000FFFFFFE0⟩ rfl rfl (by decide) (by decide)
    ⟨by simp, by simp, (countBits _ hn t).1⟩ ?_
  simp only [rowConstraint, countField, (countBits _ hn t).2, hn, decide_true]

theorem wireDrive (vr vl : BitVec 16) : Statement (.wireDrive vr vl) := fun _ => by
  have h1 := (vr.extractLsb' 8 8).isLt
  have h2 := (vr.extractLsb' 0 8).isLt
  have h3 := (vl.extractLsb' 8 8).isLt
  have h4 := (vl.extractLsb' 0 8).isLt
  have hf : frameNumber (driveBytes cfg vr vl).toList =
      2 ^ 32 * 0x91 + ((((vr.extractLsb' 8 8).toNat * 256 + (vr.extractLsb' 0 8).toNat) * 256 +
        (vl.extractLsb' 8 8).toNat) * 256 + (vl.extractLsb' 0 8).toNat) := by
    simp only [driveBytes, frameNumber, List.foldl_cons, List.foldl_nil, Vector.toList_mk, cfg]
    have : (145 : Byte).toNat = 145 := rfl
    omega
  show decide (_ ∧ frameNumber _ &&& 0xFF00000000 = 0x9100000000) = true
  refine decide_eq_true ⟨by simp [tableRow], ?_⟩
  rw [hf, show (0xFF00000000 : Nat) = 2 ^ 32 * 0xFF + 0 from rfl]
  apply Nat.eq_of_testBit_eq
  intro j
  rw [Nat.testBit_and, Nat.testBit_two_pow_mul_add _ (by omega), Nat.testBit_two_pow_mul_add _ (by omega),
    show (0x9100000000 : Nat) = 2 ^ 32 * 0x91 + 0 from rfl, Nat.testBit_two_pow_mul_add _ (by omega)]
  split
  · simp
  · rw [← Nat.testBit_and]
    rfl

end Sys2Proof.Laws.TableRow
end

