-- ==== Sys2Proof/Tests/Slice0.lean ====
section
/-! SUPPORT. Small tests: the words of the spec, one step of each instruction (expected values from
spec/95_test_vectors.md), and a witness for the hypotheses of each statement. -/

namespace Sys2Proof.Tests

open Sys2Proof.Machine Sys2Proof.Safety

/-! ## Helpers -/

/-- A healthy transport. -/
def healthy : Answers := { isOpen := true, tx := .ok, rx := .serve }

/-- Reset, then a valid handle and a healthy transport. -/
def ready : State := { State.reset with h := true, answers := healthy }

/-- `ready` with `LS` holding a frame that TX and ECHO carry. -/
def driven (f : Vector Byte 5) : State :=
  { ready with ls := { valid := true, frame := f }, txLog := f.toList, echoLog := [f.toList] }

/-- One step with a word presented. -/
def present (w : CommandWord) (s : State) : Result := step (s.withFetchWord 72 w.toNat)

/-- What holds of the next state. -/
def next (o : Result) (p : State → Bool) : Bool :=
  match o with
  | .next s => p s
  | .fault _ => false
  | .refused _ => false

/-- The response of a state: its status, whether it says sent, its bytes and its value. -/
def answered (st : Status) (sent : Bool) (bytes : Frame) (value : BitVec 32) (s : State) : Bool :=
  match s.resp with
  | some r =>
    decide (r.status = st ∧ r.sent = sent ∧ r.fbytes.toList.take r.flen.toNat = bytes ∧ r.value = value)
  | none => false

/-- The value of a response and its tag. -/
def tagged (value : BitVec 32) (vw vs : Bool) (s : State) : Bool :=
  match s.resp with
  | some r => decide (r.status = .ok ∧ r.value = value ∧ r.vw = vw ∧ r.vs = vs)
  | none => false

/-- A turn of a healthy transport with a word presented. -/
def turn (w : CommandWord) : Turn := { signal := .command w, answers := healthy, rx := .arrive [] }

/-! ## WellFormed -/

/-- R61: DECINT presents at most four bytes. -/
theorem test_wf_decint_five_bytes : (Instr.decint [1, 2, 3, 4, 5] typeS16).wf = false := by decide

theorem test_wf_decint_four_bytes : (Instr.decint [1, 2, 3, 4] typeS16).wf = true := by decide

/-! ## Decoding, from the spec's encodings (R57 to R64, R51 to R53) -/

theorem test_decode_lifecycle :
    decodeCommand (0x01#8 ++ 0#32 ++ 0#32) = .ok .attach ∧ decodeCommand (0x02#8 ++ 0#32 ++ 0#32) = .ok .detach := by
  decide

theorem test_decode_encoder :
    decodeCommand (0b00010000#8 ++ 0#64) = .ok .encPassive ∧ decodeCommand (0b00010001#8 ++ 0#64) = .ok .encSafe ∧
    decodeCommand (0b00010010#8 ++ 0#64) = .ok .encFull ∧ decodeCommand (0b00010011#8 ++ 0#64) = .ok .encClean ∧
    decodeCommand (0b00010100#8 ++ 0#64) = .ok .encDock ∧ decodeCommand (0b00010101#8 ++ 0#64) = .ok .encReset ∧
    decodeCommand (0b00010110#8 ++ 0#64) = .ok .encBeep ∧
    decodeCommand (0b00010111#8 ++ 0x0000012C#32 ++ 0xFFFFFED4#32) = .ok (.encDrive 300 0xFFFFFED4) := by decide

theorem test_decode_transmit :
    decodeCommand (0b00100000#8 ++ 0#64) = .ok .txPassive ∧ decodeCommand (0b00100001#8 ++ 0#64) = .ok .txSafe ∧
    decodeCommand (0b00100010#8 ++ 0#64) = .ok .txFull ∧ decodeCommand (0b00100011#8 ++ 0#64) = .ok .txClean ∧
    decodeCommand (0b00100100#8 ++ 0#64) = .ok .txDock ∧ decodeCommand (0b00100101#8 ++ 0#64) = .ok .txReset ∧
    decodeCommand (0b00100110#8 ++ 0#64) = .ok .txBeep ∧
    decodeCommand (0b00100111#8 ++ 0x00000001#32 ++ 0xFFFFFFFF#32) = .ok (.txDrive 1 0xFFFFFFFF) := by decide

theorem test_decode_keys :
    decodeCommand (0b00110000#8 ++ 0#32 ++ 0#28 ++ 0b1010#4) = .ok (.keyPress 10) ∧
    decodeCommand (0b00110001#8 ++ 0#32 ++ 0#28 ++ 0b0010#4) = .ok (.keyRelease 2) := by decide

/-- R63, R60, R61: SG is bit 1, WS is bit 0, `n` is bits 4 to 2. -/
theorem test_decode_typed :
    decodeCommand (0b01000000#8 ++ 0#32 ++ 0#30 ++ 0b1#1 ++ 0b0#1) = .ok (.read ⟨.one, .signed⟩) ∧
    decodeCommand (0b01010000#8 ++ 0x0000FFFF#32 ++ 0#30 ++ 0b0#1 ++ 0b1#1) =
      .ok (.encint 0x0000FFFF ⟨.two, .unsigned⟩) ∧
    decodeCommand (0b01010001#8 ++ 0x12#8 ++ 0x34#8 ++ 0x56#8 ++ 0#8 ++ 0#27 ++ 0b011#3 ++ 0b0#1 ++ 0b1#1) =
      .ok (.decint [0x12, 0x34, 0x56] ⟨.two, .unsigned⟩) ∧
    decodeCommand (0x51#8 ++ 0xFFABCDEF#32 ++ 0x00000004#32) = .ok (.decint [0xFF] ⟨.one, .unsigned⟩) := by decide

theorem test_decode_wire :
    decodeWhole [0x80] = .ok .wirePassive ∧ decodeWhole [0x83] = .ok .wireSafe ∧ decodeWhole [0x84] = .ok .wireFull ∧
    decodeWhole [0x87] = .ok .wireClean ∧ decodeWhole [0x8F] = .ok .wireDock ∧ decodeWhole [0x07] = .ok .wireReset ∧
    decodeWhole [0x8C, 0x03, 0x01, 0x40, 0x10, 0x8D, 0x03] = .ok .wireBeep ∧
    decodeWhole [0x91, 0xFE, 0xD4, 0x01, 0x2C] = .ok (.wireDrive 0xFED4 0x012C) := by decide

/-- R55: no other bytes are a frame, and a frame has nothing behind it. -/
theorem test_decode_no_frame :
    decodeWhole [] = .error .notAFrame ∧ decodeWhole [0x81] = .error .notAFrame ∧
    decodeWhole [0x8C, 0x03] = .error .notAFrame ∧ decodeWhole [0x91, 0, 0, 0] = .error .notAFrame ∧
    decodeWhole [0x80, 0x80] = .error .notAFrame := by decide

/-- Words numbered as spec/opcode_table.json numbers them. -/
theorem test_decode_table_words :
    decodeTableWord 72 0x270000000000000000 = some (.txDrive 0 0) ∧ decodeTableWord 8 0x07 = some .wireReset ∧
    decodeTableWord 56 0x8C030140108D03 = some .wireBeep ∧
    decodeTableWord 40 0x91012CFED4 = some (.wireDrive 0x012C 0xFED4) := by decide

/-! ## One step of each instruction (95_test_vectors S2 to S9, V1 to V7) -/

theorem test_attach : next (present 0x010000000000000000 State.reset)
    (fun s => answered .ok false [] 0 s && s.h && !s.ls.valid) = true := by decide

/-- V5: a reconnect forgets `LS` and keeps `DI`. -/
theorem test_attach_keeps_flags :
    next (present 0x010000000000000000
        { driven #v[0x91, 0x00, 0xC8, 0x00, 0x64] with di := ⟨true, false, true, false⟩ })
      (fun s => s.h && !s.ls.valid && decide (intentBits s.di = 0b0101#4)) = true := by decide

theorem test_detach : next (present 0x020000000000000000 (driven #v[0x91, 0, 0, 0, 0]))
    (fun s => answered .ok false [] 0 s && !s.h && !s.ls.valid) = true := by decide

theorem test_enc_discrete :
    next (present 0x100000000000000000 State.reset) (answered .ok false [0x80] 0) = true ∧
    next (present 0x110000000000000000 State.reset) (answered .ok false [0x83] 0) = true ∧
    next (present 0x120000000000000000 State.reset) (answered .ok false [0x84] 0) = true ∧
    next (present 0x130000000000000000 State.reset) (answered .ok false [0x87] 0) = true ∧
    next (present 0x140000000000000000 State.reset) (answered .ok false [0x8F] 0) = true ∧
    next (present 0x150000000000000000 State.reset) (answered .ok false [0x07] 0) = true ∧
    next (present 0x160000000000000000 State.reset)
      (answered .ok false [0x8C, 0x03, 0x01, 0x40, 0x10, 0x8D, 0x03] 0) = true := by decide

/-- V2: both ends of the range, right wheel first. -/
theorem test_encDrive : next (present 0x1700007FFFFFFF8000 State.reset)
    (answered .ok false [0x91, 0x7F, 0xFF, 0x80, 0x00] 0) = true := by decide

/-- V2: 65236 is not -300. -/
theorem test_encDrive_range :
    next (present 0x170000FED400000000 State.reset) (answered .rangeError false [] 0) = true := by decide

theorem test_tx_discrete :
    next (present 0x200000000000000000 ready) (fun s => answered .ok true [0x80] 0 s && s.txLog == [0x80]) = true ∧
    next (present 0x210000000000000000 ready) (fun s => answered .ok true [0x83] 0 s && s.txLog == [0x83]) = true ∧
    next (present 0x220000000000000000 ready) (fun s => answered .ok true [0x84] 0 s && s.txLog == [0x84]) = true ∧
    next (present 0x230000000000000000 ready) (fun s => answered .ok true [0x87] 0 s && s.txLog == [0x87]) = true ∧
    next (present 0x240000000000000000 ready) (fun s => answered .ok true [0x8F] 0 s && s.txLog == [0x8F]) = true ∧
    next (present 0x250000000000000000 ready) (fun s => answered .ok true [0x07] 0 s && s.txLog == [0x07]) = true := by
  decide

/-- V2, `fault(4)`: four bytes of the Beep frame are on TX, none is echoed, the handle is gone. -/
theorem test_txBeep_fault :
    next (present 0x260000000000000000 { ready with answers := { healthy with tx := .fault 4 } })
      (fun s => answered .connectionLost false [] 0 s && s.txLog == [0x8C, 0x03, 0x01, 0x40] && s.echoLog == [] &&
        !s.h) = true := by decide

/-- S8: a write to a dead transport alters neither `LS` nor TX. -/
theorem test_txDrive_closed :
    next (present 0x270000009600000096
        { driven #v[0x91, 0, 0, 0, 0] with answers := { healthy with isOpen := false } })
      (fun s => answered .connectionLost false [] 0 s && s.txLog == [0x91, 0, 0, 0, 0] && !s.h &&
        s.ls == { valid := true, frame := #v[0x91, 0, 0, 0, 0] }) = true := by decide

/-- V7: RangeError wins over an invalid handle; with a valid one the frame goes out and `LS` holds it. -/
theorem test_txDrive :
    next (present 0x270000800000000000 State.reset) (answered .rangeError false [] 0) = true ∧
    next (present 0x270000012CFFFFFED4 ready)
      (fun s => answered .ok true [0x91, 0x01, 0x2C, 0xFE, 0xD4] 0 s && s.echoLog == [[0x91, 0x01, 0x2C, 0xFE, 0xD4]] &&
        s.ls == { valid := true, frame := #v[0x91, 0x01, 0x2C, 0xFE, 0xD4] }) = true := by decide

/-- V4: forward from rest, and a discrete key. -/
theorem test_keyPress :
    next (present 0x300000000000000000 ready)
      (fun s => answered .ok true [0x91, 0x00, 0x96, 0x00, 0x96] 0 s && decide (intentBits s.di = 0b0001#4)) = true ∧
    next (present 0x300000000000000005 ready) (answered .ok true [0x83] 0) = true := by decide

/-- V4: an invalid handle loses the send and keeps the flag; an unbound key never fails. -/
theorem test_keyPress_invalid :
    next (present 0x300000000000000000 { driven #v[0x91, 0, 0, 0, 0] with h := false })
      (fun s => answered .connectionLost false [] 0 s && decide (intentBits s.di = 0b0001#4) &&
        s.ls == { valid := true, frame := #v[0x91, 0, 0, 0, 0] }) = true ∧
    next (present 0x30000000000000000F State.reset) (answered .ok false [] 0) = true := by decide

/-- V4: the frame equals a stale `LS`, so the release is suppressed before `send` and `H = 0` is not met. -/
theorem test_keyRelease_suppressed :
    next (present 0x310000000000000000
        { driven #v[0x91, 0, 0, 0, 0] with h := false, di := ⟨true, false, false, false⟩ })
      (fun s => answered .ok false [] 0 s && decide (intentBits s.di = 0b0000#4)) = true := by decide

/-- V4, from `0101` with right wheel first: releasing left leaves forward. -/
theorem test_keyRelease :
    next (present 0x310000000000000001
        { driven #v[0x91, 0x00, 0xC8, 0x00, 0x64] with di := ⟨true, false, true, false⟩ })
      (answered .ok true [0x91, 0x00, 0x96, 0x00, 0x96] 0) = true := by decide

/-- V3: S16 of `FE D4` is -300, and the two bytes are taken; U16 of the same is 65236. -/
theorem test_read :
    next (present 0x400000000000000003 { ready with rx := [0xFE, 0xD4, 0x07] })
      (fun s => tagged 0xFFFFFED4 true true s && s.rx == [0x07] && s.h) = true ∧
    next (present 0x400000000000000001 { ready with rx := [0xFE, 0xD4] }) (tagged 65236 true false) = true := by decide

/-- S7: a short read of one byte; the byte is gone and the handle is invalid. -/
theorem test_read_short :
    next (present 0x400000000000000001 { ready with rx := [0x12] })
      (fun s => answered .formatError false [] 0 s && s.rx == [] && !s.h) = true := by decide

/-- V1: the operand is sign-extended, and never cut to its low byte. -/
theorem test_encint :
    next (present 0x50FFFFFFFF00000002 State.reset) (answered .ok false [0xFF] 0) = true ∧
    next (present 0x50FFFFFFFF00000000 State.reset) (answered .rangeError false [] 0) = true := by decide

/-- V1: big-endian and two's complement; too few bytes are FormatError and keep the handle. -/
theorem test_decint :
    next (present 0x51800000000000000B State.reset) (tagged 0xFFFF8000 true true) = true ∧
    next (present 0x511200000000000007 ready) (fun s => answered .formatError false [] 0 s && s.h) = true := by decide

/-- One step with a frame handed over (log 7). -/
theorem test_wire :
    next (step (ready.withFetchWord 8 0x8F)) (fun s => answered .ok true [0x8F] 0 s && s.echoLog == [[0x8F]]) = true ∧
    next (step (ready.withFetchWord 40 0x91012CFED4)) (fun s => s.ls.valid && s.txLog.length == 5) = true := by decide

/-- DecodeOfEncodeIsIdentity. -/
theorem test_witness_DecodeOfEncode : (Instr.decint [0xFE, 0xD4, 0, 0xFF] typeS16).wf = true := by decide

/-- WordDecodesOnlyAsItsEncoding. -/
theorem test_witness_WordDecodes :
    decodeCommand 0x17FFFFFFFFFFFFFFFF = .ok (.encDrive 0xFFFFFFFF 0xFFFFFFFF) ∧
    (∀ bs t, Instr.encDrive 0xFFFFFFFF 0xFFFFFFFF ≠ .decint bs t) ∧
    decodeCommand 0x51FFABCDEF00000004 = .ok (.decint [0xFF] ⟨.one, .unsigned⟩) ∧
    encode (.decint [0xFF] ⟨.one, .unsigned⟩) = .command 0x51FF00000000000004 :=
  ⟨by decide, by simp, by decide, by decide⟩

/-- DecoderSelectsTableRow: a word in DECINT's row, and the first count outside it. -/
theorem test_witness_SelectsRow :
    rowSelects (tableRow (.decint [] typeS16)) 0x510000000000000013 = true ∧
    rowConstraint (.decint [] typeS16) 0x510000000000000013 = true ∧
    rowConstraint (.decint [] typeS16) 0x510000000000000014 = false := by decide

/-- ReservedWordsRaiseIllegalCommand, HandleWrites, ErrorPriority: every way of V6 to be reserved. -/
theorem test_witness_Reserved :
    reserved 0x000000000000000000 ∧ reserved 0xFFFFFFFFFFFFFFFFFF ∧ reserved 0x180000000000000000 ∧
    reserved 0x010000000000000001 ∧ reserved 0x200000000100000000 ∧ reserved 0x260000000080000000 ∧
    reserved 0x300000000000000010 ∧ reserved 0x310000000100000003 ∧ reserved 0x400000000000000004 ∧
    reserved 0x400000000100000000 ∧ reserved 0x500000000000000004 ∧ reserved 0x510000000000000014 ∧
    reserved 0x51000000000000001C ∧ reserved 0x510000000000000020 := by
  refine ⟨?_, ?_, ?_, ?_, ?_, ?_, ?_, ?_, ?_, ?_, ?_, ?_, ?_, ?_⟩ <;> decide

/-- ReservedWordsRaiseIllegalCommand: words at the edge of their formats that are not. -/
theorem test_witness_not_Reserved :
    ¬ reserved 0x17FFFFFFFFFFFFFFFF ∧ ¬ reserved 0x30000000000000000F ∧ ¬ reserved 0x50FFFFFFFF00000003 ∧
    ¬ reserved 0x51FFFFFFFF00000013 := by
  refine ⟨?_, ?_, ?_, ?_⟩ <;> decide

/-- ReservedWordsRaiseIllegalCommand, StepRunsDecodedInstruction, IdleStepChangesNothing, ResetLeaves: turns with a
word, a reserved word and reset as the oldest, and none. -/
theorem test_witness_turns :
    ({ ready with script := [turn 0x00] }).script = turn 0x00 :: [] ∧ (turn 0x00).signal = .command 0x00 ∧
    (decode (turn 0x160000000000000000).signal = .ok .encBeep) ∧ State.reset.script = [] ∧
    (({ signal := .reset, answers := healthy, rx := .become [] } : Turn).signal = .reset) := by decide

/-- EncodeIntMeaning, CodecRoundTrip: both ends of a range, and just past them. -/
theorem test_witness_ranges :
    (rangeLo typeS16 ≤ -32768 ∧ (-32768 : Int) ≤ rangeHi typeS16) ∧
    (rangeLo typeS16 ≤ 32767 ∧ 32767 ≤ rangeHi typeS16) ∧
    ¬ (rangeLo typeS16 ≤ 32768 ∧ (32768 : Int) ≤ rangeHi typeS16) ∧
    (rangeLo ⟨.one, .unsigned⟩ ≤ 0 ∧ 0 ≤ rangeHi ⟨.one, .unsigned⟩) ∧
    ¬ (rangeLo ⟨.one, .unsigned⟩ ≤ -1 ∧ (-1 : Int) ≤ rangeHi ⟨.one, .unsigned⟩) ∧
    rangeHi ⟨.one, .unsigned⟩ = 255 ∧ rangeLo ⟨.one, .signed⟩ = -128 := by decide

/-- DecodeIntMeaning, CodecRoundTrip, DecintMeaning, RxReadExactMeaning: byte counts that match, and some
that do not. -/
theorem test_witness_byte_counts :
    ([0x12, 0x34] : List Byte).length = widthBytes .two ∧ ([0x12] : List Byte).length = widthBytes .one ∧
    ([] : List Byte).length ≠ widthBytes .one ∧ ([1, 2, 3] : List Byte).length ≠ widthBytes .two ∧
    ([0x12] : List Byte).length < 2 := by decide

/-- EncintMeaning: the ends of a range as 32-bit fields, and one past. -/
theorem test_witness_encint_operands :
    (rangeLo ⟨.one, .signed⟩ ≤ (0xFFFFFF80#32).toInt ∧ (0xFFFFFF80#32).toInt ≤ rangeHi ⟨.one, .signed⟩) ∧
    (rangeLo typeS16 ≤ (0x00007FFF#32).toInt ∧ (0x00007FFF#32).toInt ≤ rangeHi typeS16) ∧
    ¬ (rangeLo typeS16 ≤ (0x00008000#32).toInt ∧ (0x00008000#32).toInt ≤ rangeHi typeS16) := by decide

/-- EncodeDriveMeaning, EncDriveMeaning, TxDriveMeaning: speeds at the ends of their range, and one past
each. -/
theorem test_witness_speeds :
    speedsInRange 32767 (-32768) ∧ ¬ speedsInRange 32768 0 ∧ ¬ speedsInRange 0 (-32769) ∧
    speedsInRange (0x00007FFF#32).toInt (0xFFFF8000#32).toInt ∧ ¬ speedsInRange (0x0000FED4#32).toInt (0#32).toInt := by
  decide

/-- TxDiscreteMeaning, TxDriveMeaning, WireFramesTransmit, SendMeaning, TxWriteMeaning: the four ways a
transmission ends. -/
theorem test_witness_transport :
    (ready.h = true ∧ ready.answers.isOpen = true ∧ ready.answers.tx = .ok) ∧ State.reset.h = false ∧
    (({ ready with answers := { healthy with isOpen := false } }).h = true ∧
      ({ ready with answers := { healthy with isOpen := false } }).answers.isOpen = false) ∧
    (({ ready with answers := { healthy with tx := .fault 7 } }).answers.isOpen = true ∧
      ({ ready with answers := { healthy with tx := .fault 7 } }).answers.tx = .fault 7) := by decide

/-- RxReadExactMeaning, ReadMeaning: each answer, with the bytes asked for and one fewer. -/
theorem test_witness_receive :
    next (exec (.read typeS16) { ready with rx := [1, 2] }) (fun s => s.h) = true ∧
    rxReadExact 2 { ready with rx := [1, 2] } = .bytes [1, 2] ready ∧
    rxReadExact 2 { ready with rx := [1] } = .short ready ∧
    rxReadExact 1 { ready with rx := [1], answers := { healthy with rx := .fault 1 } } =
      .fault { ready with answers := { healthy with rx := .fault 1 } } ∧
    (exec (.read typeS16) { ready with answers := { healthy with rx := .never } } matches .fault .readBlocked) =
      true := by decide

/-- DriveVectorAndWheelSpeeds: below, at and above the limits; an even rotation. -/
theorem test_witness_clamp :
    ((-32769 : Int) < -32768) ∧ ((32767 : Int) < 32768) ∧ ((-32768 : Int) ≤ -32768 ∧ (-32768 : Int) ≤ 32767) ∧
    (-100 : Int) = 2 * (-50) := by decide

/-- FlagChangeChangesFrame. -/
theorem test_witness_FlagChange : 0 < cfg.cv ∧ 0 < cfg.cr ∧ cfg.cv + cfg.cr / 2 ≤ 32767 := by decide

/-- DriveUpdateMeaning: an update suppressed, one not. -/
theorem test_witness_DriveUpdate :
    ((driven #v[0x91, 0, 0, 0, 0]).ls.valid = true ∧
      driveFrame cfg (driven #v[0x91, 0, 0, 0, 0]).di = .ok (driven #v[0x91, 0, 0, 0, 0]).ls.frame) ∧
    ¬ (ready.ls.valid = true) := by decide

/-- KeyPressMeaning, KeyReleaseMeaning, OnlyMatchingKeysMoveIntent: direction keys, held and not, and the codes that are
none. -/
theorem test_witness_keys :
    (directionOf 3 = some .right ∧ getFlag ready.di .right = false) ∧
    (directionOf 0 = some .forward ∧ getFlag { ready with di := ⟨true, false, false, false⟩ }.di .forward = true) ∧
    (11 ≤ (11#4).toNat ∧ 11 ≤ (15#4).toNat) ∧ (directionOf 4 = none ∧ 4 ≤ (4#4).toNat) ∧
    (∀ sym : BitVec 4, sym.toNat < 4 → Instr.keyPress 4 ≠ .keyPress sym ∧ Instr.keyPress 4 ≠ .keyRelease sym) ∧
    next (exec (.keyPress 4) ready) (fun s => s.h) = true := by decide

/-- DirectionKeysNeverRepeatTheLastFrame: a direction key that transmits while `LS` is valid and recorded. -/
theorem test_witness_NeverRepeats :
    LastSentRecorded (driven #v[0x91, 0, 0, 0, 0]) ∧ directionOf 0 ≠ none ∧
    ∃ s', exec (.keyPress 0) (driven #v[0x91, 0, 0, 0, 0]) = .next s' ∧
      s'.echoLog = (driven #v[0x91, 0, 0, 0, 0]).echoLog ++ [[0x91, 0x00, 0x96, 0x00, 0x96]] :=
  ⟨fun _ => by decide, by decide, _, rfl, by decide⟩

/-- HandleWrites, StatusTable, ConnectionLostEffects: instructions that answer, one for each status there is. -/
theorem test_witness_statuses :
    (∃ s' r, exec .txSafe ready = .next s' ∧ s'.resp = some r ∧ r.status = .ok) ∧
    (∃ s' r, exec (.txDrive 32768 0) ready = .next s' ∧ s'.resp = some r ∧ r.status = .rangeError) ∧
    (∃ s' r, exec (.read typeS16) ready = .next s' ∧ s'.resp = some r ∧ r.status = .formatError) ∧
    (∃ s' r, exec .txSafe State.reset = .next s' ∧ s'.resp = some r ∧ r.status = .connectionLost) :=
  ⟨⟨_, _, rfl, rfl, rfl⟩, ⟨_, _, rfl, rfl, by decide⟩, ⟨_, _, rfl, rfl, rfl⟩, ⟨_, _, rfl, rfl, rfl⟩⟩

/-- AttachMeaning: an invalid handle made valid. -/
theorem test_witness_Attach : ∃ s', exec .attach State.reset = .next s' ∧ State.reset.h = false ∧ s'.h = true :=
  ⟨_, rfl, rfl, rfl⟩

/-- LastSentWrites: an instruction that writes `LS` and is not of the handle's lifecycle. -/
theorem test_witness_LastSentWrites :
    ∃ s' r, exec (.wireDrive 300 0) ready = .next s' ∧ s'.resp = some r ∧ s'.ls ≠ ready.ls :=
  ⟨_, _, rfl, rfl, by decide⟩

/-- ErrorPriority: each error with the causes below it present as well. -/
theorem test_witness_priority :
    (reserved 0x410000000000000000) ∧ (State.reset.answers.rx ≠ .never) ∧
    (¬ speedsInRange (32768#32).toInt (0#32).toInt) ∧ (State.reset.h = false ∧ State.reset.answers.isOpen = false) ∧
    rxReadExact 2 ready = .short ready := by
  decide

/-- PureOperationsDependOnOperandsAlone. -/
theorem test_witness_Pure : isPure (.decint [1] typeS16) = true ∧ isPure .encBeep = true := by decide

/-- HistoriesOnlyGrow, HealthyTxCarriesExactlyTheEchoes: a step that is no reset, with a healthy write, and a state
whose TX is its echoes. -/
theorem test_witness_histories :
    (∀ t rest, ({ ready with script := [turn 0x260000000000000000] } : State).script = t :: rest →
      t.signal ≠ .reset ∧ t.answers.tx = .ok) ∧
    (driven #v[0x91, 0, 0, 0, 0]).txLog = (driven #v[0x91, 0, 0, 0, 0]).echoLog.flatten ∧
    ∃ s', step { ready with script := [turn 0x260000000000000000] } = .next s' :=
  ⟨fun t rest h => by cases h; decide, by decide, _, rfl⟩

/-- FramesAreCutBack. -/
theorem test_witness_frames : ∀ i ∈ [Instr.wireBeep, .wireDrive 0x012C 0xFED4, .wireReset], isWire i = true := by decide

/-- InvariantKeptByEveryStep: a state with a frame sent has the invariant, and takes a step. -/
theorem test_witness_Inv :
    Inv { driven #v[0x91, 0, 0, 0, 0] with script := [turn 0x300000000000000000] } ∧
    ∃ s', step { driven #v[0x91, 0, 0, 0, 0] with script := [turn 0x300000000000000000] } = .next s' :=
  ⟨⟨fun _ h => (by cases h), fun _ => by decide, fun f hf => by
      cases List.mem_singleton.1 hf
      exact ⟨.wireDrive 0 0, by decide, by decide⟩,
    [], [], rfl, trivial⟩, _, rfl⟩

/-- ResponseShowsRegisters: a key event whose response shows right alone, in the uppermost bit, and the response of a
reserved word. -/
theorem test_witness_ResponseShows :
    (∃ s' r, step { ready with script := [turn 0x300000000000000003] } = .next s' ∧ s'.resp = some r ∧
      r.di = 0b1000 ∧ r.hv = true) ∧
    ∃ s' r, step { ready with script := [turn 0x000000000000000000] } = .next s' ∧ s'.resp = some r :=
  ⟨⟨_, _, rfl, rfl, by decide, by decide⟩, _, _, rfl, rfl⟩

/-- R66, R10: each direction key moves its own bit of `di`. -/
theorem test_key_bits :
    next (present 0x300000000000000001 ready) (fun s => decide (intentBits s.di = 0b0100#4)) = true ∧
    next (present 0x300000000000000002 ready) (fun s => decide (intentBits s.di = 0b0010#4)) = true := by decide

/-- InvalidHandleNeverConsultsTransport. -/
theorem test_witness_InvalidHandle : ({ ready with h := false } : State).h = false := by decide

end Sys2Proof.Tests
end

/-! SUPPORT. Every instruction answers but a READ the transport never answers (R1, R205), and
a step runs what its turn presents (R39). -/

namespace Sys2Proof.Machine

/-! ## Answering: a next state with a response, the environment's answers and script untouched -/

/-- `out` answers the operation begun in `s`: it returns a response, and the environment's part of `s` stays. -/
def Responds (s : State) (out : Result) : Prop :=
  ∃ s' r, out = .next s' ∧ s'.resp = some r ∧ s'.answers = s.answers ∧ s'.script = s.script

/-- Whether an operation answers depends on the environment's part of the state alone. -/
theorem Responds.of_sameEnvironment {s s' : State} {out : Result} (h : Responds s' out)
    (ha : s'.answers = s.answers) (hs : s'.script = s.script) : Responds s out := by
  obtain ⟨s'', r, hout, hr, ha', hs'⟩ := h
  exact ⟨s'', r, hout, hr, ha'.trans ha, hs'.trans hs⟩

theorem setResp_responds (s : State) (r : Response) : Responds s (.next (s.setResp r)) :=
  ⟨_, r, rfl, rfl, rfl, rfl⟩

theorem raise_responds (e : Status) (s : State) : Responds s (raise e s) := setResp_responds s _

theorem respondNone_responds (s : State) : Responds s (respondNone s) := setResp_responds s _

theorem respondFrame_responds (sent : Bool) (f : Frame) (s : State) : Responds s (respondFrame sent f s) :=
  setResp_responds s _

theorem respondValue_responds (t : IntType) (v : Int) (s : State) : Responds s (respondValue t v s) :=
  setResp_responds s _

theorem transmit_responds (f : Frame) (s : State) : Responds s (transmit f s) := by
  rcases transmit_cases f s with ⟨_, _, _, e⟩ | ⟨_, _, _, e⟩ <;> rw [e] <;> exact ⟨_, _, rfl, rfl, rfl, rfl⟩

theorem transmitDrive_responds (f : Vector Byte 5) (s : State) : Responds s (transmitDrive f s) := by
  rcases transmitDrive_cases f s with ⟨_, _, _, e⟩ | ⟨_, _, _, e⟩ <;> rw [e] <;> exact ⟨_, _, rfl, rfl, rfl, rfl⟩

theorem driveUpdate_responds (s : State) : Responds s (driveUpdate s) := by
  rcases driveUpdate_cases s with ⟨_, _, _, _, e⟩ | ⟨f, _, _, e⟩ <;> rw [e]
  · exact respondNone_responds s
  · exact transmitDrive_responds f s

/-- READ answers, or the transport it may consult never does (R130, R205). -/
theorem execRead_responds_or_blocked (t : IntType) (s : State) :
    Responds s (execRead t s) ∨
      (s.h = true ∧ s.answers.isOpen = true ∧ s.answers.rx = .never ∧ execRead t s = .fault .readBlocked) := by
  rcases execRead_cases t s with ⟨_, e⟩ | ⟨_, _, e⟩ |
    ⟨hh, ho, ⟨v, _, _, e⟩ | ⟨_, _, e⟩ | ⟨_, _, _, _, e⟩ | ⟨hn, e⟩⟩
  · exact .inl (e ▸ raise_responds _ s)
  · exact .inl (e ▸ (raise_responds _ (s.setHandle false)).of_sameEnvironment rfl rfl)
  · exact .inl (e ▸ (respondValue_responds t v (s.setRx _)).of_sameEnvironment rfl rfl)
  · exact .inl (e ▸ (raise_responds _ ((s.setRx _).setHandle false)).of_sameEnvironment rfl rfl)
  · exact .inl (e ▸ (raise_responds _ ((s.setRx _).setHandle false)).of_sameEnvironment rfl rfl)
  · exact .inr ⟨hh, ho, hn, e⟩

/-- Every instruction but READ answers in every state. -/
theorem exec_responds_of_not_read (i : Instr) (s : State) (hi : ∀ t, i ≠ .read t) : Responds s (exec i s) := by
  rcases exec_shapes i s with ⟨_, ⟨f, _, _, e⟩ | ⟨t, v, e⟩ | ⟨e, _⟩ | ⟨e, _⟩⟩ | ⟨_, _, _, _, e⟩ | ⟨_, _, e⟩ |
    ⟨k, e, _⟩ | ⟨f, _, _, e, _⟩ | ⟨_, d, v, _, _, _, e⟩ | ⟨t, hr, _⟩ | ⟨_, e⟩ | ⟨_, e⟩
  · exact e ▸ respondFrame_responds false f s
  · exact e ▸ respondValue_responds t v s
  · exact e ▸ raise_responds _ s
  · exact e ▸ raise_responds _ s
  · exact e ▸ raise_responds _ s
  · exact e ▸ respondNone_responds s
  · exact e ▸ transmit_responds (frameOf cfg k) s
  · exact e ▸ transmitDrive_responds f s
  · exact e ▸ (driveUpdate_responds (s.setDi (setFlag s.di d v))).of_sameEnvironment rfl rfl
  · exact absurd hr (hi t)
  · exact e ▸ (respondNone_responds (s.forgetSent.setHandle true)).of_sameEnvironment rfl rfl
  · exact e ▸ (respondNone_responds ((s.setHandle false).forgetSent)).of_sameEnvironment rfl rfl

/-- Settles O43: an instruction that is no READ answers, and a READ answers unless the transport never does. -/
theorem everyInstructionResponds : Obligations.EveryInstructionResponds := by
  intro i s
  by_cases hi : ∃ t, i = .read t
  · obtain ⟨t, rfl⟩ := hi
    exact (execRead_responds_or_blocked t s).imp_right fun h => ⟨t, rfl, h⟩
  · exact .inl (exec_responds_of_not_read i s fun t h => hi ⟨t, h⟩)

/-! ## The step -/

/-- A step with a turn whose signal is an instruction runs it in the state with that turn taken (R1). -/
theorem step_of_decode {s : State} {t : Turn} {rest : List Turn} {i : Instr} (hs : s.script = t :: rest)
    (hd : decode t.signal = .ok i) : step s = exec i (takeTurn t rest s) := by
  simp only [step, hs, hd]

/-- Settles O6: the state the instruction runs in is the one with the oldest turn taken, for both kinds of change of
the receive side. -/
theorem stepRunsDecodedInstruction : Obligations.StepRunsDecodedInstruction := by
  intro s t rest i hs hd
  rw [step_of_decode hs hd, takeTurn]
  cases t.rx with
  | arrive bs => rfl
  | become bs => rfl

end Sys2Proof.Machine

/-! SUPPORT. What an operation writes before it responds, said once for every instruction and for the step, and the
rules of spec section 10 (state) that follow. -/

namespace Sys2Proof.Machine

open Sys2Proof.Safety

/-! ## Responses are filled as R69 says -/

theorem zeroBytes_getElem : ∀ i : Fin 7, (#v[0, 0, 0, 0, 0, 0, 0] : Vector Byte 7)[i] = 0 := by decide

theorem responseBlank_filled (e : Status) (di : BitVec 4) (hv : Bool) : ResponseFilled (responseBlank e di hv) :=
  ⟨fun i _ => zeroBytes_getElem i, fun _ => ⟨rfl, rfl, rfl, rfl, rfl⟩, nofun, fun _ => ⟨rfl, rfl, rfl⟩⟩

theorem responseValue_filled (v : BitVec 32) (vw vs : Bool) (di : BitVec 4) (hv : Bool) :
    ResponseFilled (responseValue v vw vs di hv) :=
  ⟨fun i _ => zeroBytes_getElem i, fun h => absurd rfl h, nofun, fun h => absurd rfl h⟩

/-- The bytes of a padded frame behind the frame are zero. -/
theorem padFrame_getElem_of_length_le {f : Frame} {i : Nat} (hi : i < 7) (h : f.length ≤ i) : (padFrame f)[i] = 0 := by
  simp [padFrame, List.getElem?_eq_none h]

theorem responseFrame_filled (sent : Bool) {f : Frame} (hne : f ≠ []) (hlen : f.length ≤ 7) (di : BitVec 4) (hv : Bool) :
    ResponseFilled (responseFrame sent (BitVec.ofNat 3 f.length) (padFrame f) di hv) := by
  have hflen : (BitVec.ofNat 3 f.length).toNat = f.length := by
    rw [BitVec.toNat_ofNat]
    omega
  have hpos : BitVec.ofNat 3 f.length ≠ 0 := by
    intro h
    have := List.length_pos_of_ne_nil hne
    rw [h] at hflen
    simp only [BitVec.ofNat_eq_ofNat, BitVec.toNat_ofNat] at hflen
    omega
  refine ⟨fun i h => ?_, fun h => absurd rfl h, fun _ => hpos, fun _ => ⟨rfl, rfl, rfl⟩⟩
  exact padFrame_getElem_of_length_le i.isLt (hflen ▸ h)

theorem responseCurrent_setResp {s : State} {r : Response} (hf : ResponseFilled r) (hd : r.di = intentBits s.di)
    (hh : r.hv = s.h) : ResponseCurrent (s.setResp r) := by
  intro r' h
  cases h
  exact ⟨hf, hd, hh⟩

/-! ## What an operation writes before it responds -/

/-- The press or the release of one of the four direction keys (R66). -/
def IsDirectionKey (i : Instr) : Prop :=
  ∃ sym, directionOf sym ≠ none ∧ (i = .keyPress sym ∨ i = .keyRelease sym)

/-- The two operations of the handle lifecycle. -/
def IsLifecycle (i : Instr) : Prop := i = .attach ∨ i = .detach

/-- The instructions that can transmit a Drive frame: TX.DRIVE, WIRE.DRIVE (log 7) and the direction keys. -/
def DrivesRobot (i : Instr) : Prop := (∃ vr vl, i = .txDrive vr vl) ∨ (∃ vr vl, i = .wireDrive vr vl) ∨ IsDirectionKey i

theorem toNat_lt_four_of_directionOf {sym : BitVec 4} : directionOf sym ≠ none → sym.toNat < 4 := by
  revert sym
  decide

/-- What the operation `i`, begun in `s` and ending with the status `e`, has written when it responds. -/
inductive Effect (i : Instr) (s : State) (e : Status) : State → Prop
  /-- Nothing but flags and the bytes of a READ. -/
  | quiet (di : DriveIntent) (rx : List Byte) (hi : ¬ IsLifecycle i) (hd : di = s.di ∨ IsDirectionKey i)
      (he : e ≠ .connectionLost) (hr : ¬ ((∃ t, i = .read t) ∧ e = .formatError)) : Effect i s e { s with di, rx }
  /-- The handle is lost, with some bytes written to TX (R46) or taken from RX (R130). -/
  | lost (di : DriveIntent) (rx bytes : List Byte) (hi : ¬ IsLifecycle i)
      (hd : di = s.di ∨ IsDirectionKey i) (he : e = .connectionLost ∨ (∃ t, i = .read t) ∧ e = .formatError) :
      Effect i s e { s with di, rx, h := false, txLog := s.txLog ++ bytes }
  /-- A discrete frame was transmitted and echoed (R111 to R117). -/
  | echoed (k : Kind) (hi : ¬ IsLifecycle i) (he : e = .ok) :
      Effect i s e { s with txLog := s.txLog ++ frameOf cfg k, echoLog := s.echoLog ++ [frameOf cfg k] }
  /-- A Drive frame was transmitted, echoed and recorded in `LS` (R13). -/
  | driven (di : DriveIntent) (vr vl : BitVec 16) (hd : di = s.di ∨ IsDirectionKey i)
      (hi : DrivesRobot i) (he : e = .ok) :
      Effect i s e { s with
        di, ls := { valid := true, frame := driveBytes cfg vr vl },
        txLog := s.txLog ++ (driveBytes cfg vr vl).toList, echoLog := s.echoLog ++ [(driveBytes cfg vr vl).toList] }
  /-- The handle is opened or closed and `LS` is unset (R171, R172). -/
  | handle (v : Bool) (hi : i = .attach ∧ v = true ∨ i = .detach ∧ v = false) (he : e = .ok) :
      Effect i s e { s with h := v, ls := { valid := false, frame := s.ls.frame } }

/-- `out` is the response of the operation `i` begun in `s`, over what the operation wrote. -/
def EndsIn (i : Instr) (s : State) (out : Result) : Prop :=
  ∃ s1 r, out = .next (s1.setResp r) ∧ ResponseCurrent (s1.setResp r) ∧ Effect i s r.status s1

section

variable {i : Instr} {s s1 : State}

theorem raise_endsIn {e : Status} (h : Effect i s e s1) : EndsIn i s (raise e s1) := by
  rw [raise, blankResponse_eq]
  exact ⟨_, _, rfl, responseCurrent_setResp (responseBlank_filled ..) rfl rfl, h⟩

theorem respondNone_endsIn (h : Effect i s .ok s1) : EndsIn i s (respondNone s1) := raise_endsIn h

theorem respondFrame_endsIn (sent : Bool) {f : Frame} (hne : f ≠ []) (hlen : f.length ≤ 7) (h : Effect i s .ok s1) :
    EndsIn i s (respondFrame sent f s1) :=
  ⟨_, _, rfl, responseCurrent_setResp (responseFrame_filled sent hne hlen ..) rfl rfl, h⟩

theorem respondValue_endsIn (t : IntType) (v : Int) (h : Effect i s .ok s1) : EndsIn i s (respondValue t v s1) := by
  rw [respondValue, valueResponse_eq]
  exact ⟨_, _, rfl, responseCurrent_setResp (responseValue_filled ..) rfl rfl, h⟩

/-- An operation that writes nothing but its response. -/
theorem Effect.silent {e : Status} (hi : ¬ IsLifecycle i) (he : e ≠ .connectionLost)
    (hr : ¬ ((∃ t, i = .read t) ∧ e = .formatError)) : Effect i s e s :=
  .quiet s.di s.rx hi (.inl rfl) he hr

theorem Effect.silent_ok (hi : ¬ IsLifecycle i) : Effect i s .ok s :=
  .silent hi (by decide) (by simp)

/-! ## Each shape of an operation -/

theorem frameOf_ne_nil (k : Kind) : frameOf cfg k ≠ [] := by cases k <;> decide

theorem frameOf_length_le (k : Kind) : (frameOf cfg k).length ≤ 7 := by cases k <;> decide

/-- A send takes and echoes the frame, or leaves a lost handle and some bytes on TX (R46). -/
theorem send_ok_or_lost (f : Frame) (s : State) :
    send f s = .ok ((s.appendTx f).appendEcho f) ∨ ∃ bytes, send f s = .lost ((s.appendTx bytes).setHandle false) := by
  rcases send_cases f s with ⟨_, _, _, e⟩ | ⟨hh, e⟩ | ⟨_, _, e⟩ | ⟨k, _, _, _, e⟩
  · exact .inl e
  · exact .inr ⟨[], by rw [e]; simp [State.appendTx, State.setHandle, ← hh]⟩
  · exact .inr ⟨[], by rw [e]; simp [State.appendTx]⟩
  · exact .inr ⟨_, e⟩

theorem transmit_endsIn (k : Kind) (hi : ¬ IsLifecycle i) :
    EndsIn i s (transmit (frameOf cfg k) s) := by
  rcases send_ok_or_lost (frameOf cfg k) s with e | ⟨bytes, e⟩ <;> rw [transmit, e]
  · exact respondFrame_endsIn true (frameOf_ne_nil k) (frameOf_length_le k) (.echoed k hi rfl)
  · exact raise_endsIn (.lost s.di s.rx bytes hi (.inl rfl) (.inl rfl))

/-- The operations that can transmit a Drive frame do not open or close the handle. -/
theorem DrivesRobot.not_lifecycle (hi : DrivesRobot i) : ¬ IsLifecycle i := by
  rcases hi with ⟨_, _, rfl⟩ | ⟨_, _, rfl⟩ | ⟨_, _, rfl | rfl⟩ <;> simp [IsLifecycle]

theorem transmitDrive_endsIn (di : DriveIntent) (vr vl : BitVec 16) (hd : di = s.di ∨ IsDirectionKey i)
    (hi : DrivesRobot i) :
    EndsIn i s (transmitDrive (driveBytes cfg vr vl) (s.setDi di)) := by
  rcases send_ok_or_lost (driveBytes cfg vr vl).toList (s.setDi di) with e | ⟨bytes, e⟩ <;> rw [transmitDrive, e]
  · exact respondFrame_endsIn true (by simp [driveBytes]) (by simp) (.driven di vr vl hd hi rfl)
  · exact raise_endsIn (.lost di s.rx bytes hi.not_lifecycle hd (.inl rfl))

theorem driveUpdate_endsIn (di : DriveIntent) (hi : IsDirectionKey i) : EndsIn i s (driveUpdate (s.setDi di)) := by
  rw [driveUpdate_of_frame (driveFrame_bytes _ _)]
  split
  · exact respondNone_endsIn (.quiet di s.rx (DrivesRobot.not_lifecycle (.inr (.inr hi))) (.inr hi) (by decide)
      (by simp))
  · exact transmitDrive_endsIn di _ _ (.inr hi) (.inr (.inr hi))

theorem execRead_endsIn_or_fault (t : IntType) (s : State) :
    EndsIn (.read t) s (execRead t s) ∨ execRead t s = .fault .readBlocked := by
  have hi : ¬ IsLifecycle (.read t) := by simp [IsLifecycle]
  have lost (rx : List Byte) {e : Status} (he : e = .connectionLost ∨ e = .formatError) :
      EndsIn (.read t) s (raise e ((s.setRx rx).setHandle false)) := by
    refine raise_endsIn ?_
    simpa [State.setRx, State.setHandle] using
      Effect.lost (s := s) s.di rx [] hi (.inl rfl) (he.imp_right fun h => ⟨⟨t, rfl⟩, h⟩)
  rcases execRead_cases t s with ⟨hh, e⟩ | ⟨_, _, e⟩ |
    ⟨_, _, ⟨v, _, _, e⟩ | ⟨rest, _, e⟩ | ⟨_, rest, _, _, e⟩ | ⟨_, e⟩⟩
  · have hs : (s.setRx s.rx).setHandle false = s := by rw [← hh]; rfl
    rw [e]
    exact .inl (by simpa only [hs] using lost s.rx (.inl rfl))
  · exact .inl (e ▸ lost s.rx (.inl rfl))
  · exact .inl (e ▸ respondValue_endsIn t v (.quiet s.di _ hi (.inl rfl) (by decide) (by simp)))
  · exact .inl (e ▸ lost rest (.inr rfl))
  · exact .inl (e ▸ lost rest (.inl rfl))
  · exact .inr e

theorem isPure_not_lifecycle (h : isPure i = true) : ¬ IsLifecycle i := by
  rintro (rfl | rfl) <;> cases h

/-- Every instruction ends in a response over one of the effects, or is a READ that never ends (R205). -/
theorem exec_endsIn_or_fault (i : Instr) (s : State) : EndsIn i s (exec i s) ∨ exec i s = .fault .readBlocked := by
  rcases exec_shapes i s with ⟨hp, h⟩ | ⟨_, _, rfl, _, e⟩ | ⟨sym, hi, e⟩ | ⟨k, e, _, ha, hd, _⟩ |
    ⟨_, _, ⟨vr, vl, rfl⟩, e, hi⟩ | ⟨sym, d, v, hsym, hi, _, e⟩ | ⟨t, rfl, e⟩ | ⟨rfl, e⟩ | ⟨rfl, e⟩
  · have hi := isPure_not_lifecycle hp
    rcases h with ⟨f, hne, hlen, e⟩ | ⟨t, v, e⟩ | ⟨e, _⟩ | ⟨e, _, _, rfl, _⟩
    · exact .inl (e ▸ respondFrame_endsIn false hne hlen (.silent_ok hi))
    · exact .inl (e ▸ respondValue_endsIn t v (.silent_ok hi))
    · exact .inl (e ▸ raise_endsIn (.silent hi (by decide) (by simp)))
    · exact .inl (e ▸ raise_endsIn (.silent hi (by decide) (by simp)))
  · exact .inl (e ▸ raise_endsIn (.silent (by simp [IsLifecycle]) (by decide) (by simp)))
  · exact .inl (e ▸ respondNone_endsIn (.silent_ok (by rcases hi with rfl | rfl <;> simp [IsLifecycle])))
  · exact .inl (e ▸ transmit_endsIn k (by simp [IsLifecycle, ha, hd]))
  · exact .inl (e ▸ transmitDrive_endsIn s.di vr vl (.inl rfl) (hi.imp_right .inl))
  · have hkey : IsDirectionKey i := ⟨sym, by simp [hsym], hi.imp And.left And.left⟩
    exact .inl (e ▸ driveUpdate_endsIn _ hkey)
  · exact e ▸ execRead_endsIn_or_fault t s
  · exact .inl (e ▸ respondNone_endsIn (.handle true (.inl ⟨rfl, rfl⟩) rfl))
  · exact .inl (e ▸ respondNone_endsIn (.handle false (.inr ⟨rfl, rfl⟩) rfl))

/-- The inversion of an instruction: its next state is a response over one of the effects. -/
theorem exec_next {s' : State} (h : exec i s = .next s') :
    ∃ s1 r, s' = s1.setResp r ∧ ResponseCurrent s' ∧ Effect i s r.status s1 := by
  rcases exec_endsIn_or_fault i s with ⟨s1, r, e, hc, he⟩ | e <;> rw [h] at e <;> cases e
  exact ⟨s1, r, rfl, hc, he⟩

end

/-! ## What a step writes -/

theorem step_of_decode_error {s : State} {t : Turn} {rest : List Turn} {e : DecodeError} (hs : s.script = t :: rest)
    (hd : decode t.signal = .error e) : step s = undecoded e (takeTurn t rest s) := by
  simp only [step, hs, hd]

/-- The inversion of a step: it idles, it resets, or it responds over what the turn's instruction wrote, which is
nothing for a reserved word (R65). -/
theorem step_next {s s' : State} (h : step s = .next s') :
    (s.script = [] ∧ s' = s) ∨
    (∃ t rest, s.script = t :: rest ∧ t.signal = .reset ∧ s' = powerOn (takeTurn t rest s)) ∨
    (∃ t rest s1 r, s.script = t :: rest ∧ s' = s1.setResp r ∧ ResponseCurrent s' ∧
      (s1 = takeTurn t rest s ∨ ∃ i, Effect i (takeTurn t rest s) r.status s1)) := by
  rcases step_cases s with ⟨hs, e⟩ | ⟨t, rest, i, hs, _, e⟩ | ⟨t, rest, d, hs, hd, e⟩ <;> rw [h] at e
  · cases e
    exact .inl ⟨hs, rfl⟩
  · obtain ⟨s1, r, hr, hc, he⟩ := exec_next e.symm
    exact .inr (.inr ⟨t, rest, s1, r, hs, hr, hc, .inr ⟨i, he⟩⟩)
  · rcases undecoded_cases d (takeTurn t rest s) with ⟨_, _, u⟩ | ⟨_, u⟩ | ⟨rfl, u⟩ <;> rw [u] at e
    · rw [raise, blankResponse_eq] at e
      cases e
      exact .inr (.inr ⟨t, rest, _, _, hs, rfl, responseCurrent_setResp (responseBlank_filled ..) rfl rfl, .inl rfl⟩)
    · cases e
    · cases e
      exact .inr (.inl ⟨t, rest, hs, decode_resetInput hd, rfl⟩)

/-! ## Frames echoed -/

theorem isDriveFrame_frameOf (k : Kind) : isDriveFrame (frameOf cfg k) = false := by cases k <;> decide

theorem isDriveFrame_driveBytes (vr vl : BitVec 16) : isDriveFrame (driveBytes cfg vr vl).toList = true := by
  simp [isDriveFrame, driveBytes]

theorem lastDrive_append_other {frames : List Frame} {f : Frame} (h : isDriveFrame f = false) :
    lastDrive (frames ++ [f]) = lastDrive frames := by
  simp [lastDrive, h]

theorem lastDrive_append_drive {frames : List Frame} {f : Frame} (h : isDriveFrame f = true) :
    lastDrive (frames ++ [f]) = some f := by
  simp [lastDrive, h]

/-- Every discrete frame is one of the wire frames (R51). -/
theorem exists_wire_frameOf (k : Kind) : ∃ i, isWire i = true ∧ encode i = .frame (frameOf cfg k) := by
  cases k with
  | passive => exact ⟨.wirePassive, rfl, rfl⟩
  | safe => exact ⟨.wireSafe, rfl, rfl⟩
  | full => exact ⟨.wireFull, rfl, rfl⟩
  | clean => exact ⟨.wireClean, rfl, rfl⟩
  | dock => exact ⟨.wireDock, rfl, rfl⟩
  | reset => exact ⟨.wireReset, rfl, rfl⟩
  | beep => exact ⟨.wireBeep, rfl, rfl⟩

theorem FramesWithin.append_bytes {frames : List Frame} {bytes : List Byte} (h : FramesWithin frames bytes)
    (more : List Byte) : FramesWithin frames (bytes ++ more) := by
  induction frames generalizing bytes with
  | nil => trivial
  | cons f fs ih =>
    obtain ⟨before, after, rfl, hfs⟩ := h
    exact ⟨before, after ++ more, by simp, ih hfs⟩

theorem FramesWithin.append_frame {frames : List Frame} {bytes : List Byte} (h : FramesWithin frames bytes)
    (f : Frame) : FramesWithin (frames ++ [f]) (bytes ++ f) := by
  induction frames generalizing bytes with
  | nil => exact ⟨bytes, [], by simp, trivial⟩
  | cons g gs ih =>
    obtain ⟨before, after, rfl, hgs⟩ := h
    exact ⟨before, after ++ f, by simp, ih hgs⟩

/-! ## The invariant, part by part -/

section

variable {i : Instr} {s s1 : State} {e : Status}

theorem Effect.lastSentRecorded (h : Effect i s e s1) (hs : LastSentRecorded s) : LastSentRecorded s1 := by
  cases h with
  | quiet => exact hs
  | lost => exact hs
  | echoed k =>
    intro hv
    rw [lastDrive_append_other (isDriveFrame_frameOf k)]
    exact hs hv
  | driven di vr vl => exact fun _ => ⟨rfl, lastDrive_append_drive (isDriveFrame_driveBytes vr vl)⟩
  | handle => exact fun hv => by cases hv

theorem Effect.echoesAreFrames (h : Effect i s e s1) (hs : EchoesAreFrames s) : EchoesAreFrames s1 := by
  cases h with
  | quiet => exact hs
  | lost => exact hs
  | echoed k => exact List.forall_mem_append.2 ⟨hs, List.forall_mem_singleton.2 (exists_wire_frameOf k)⟩
  | driven di vr vl =>
    exact List.forall_mem_append.2 ⟨hs, List.forall_mem_singleton.2 ⟨.wireDrive vr vl, rfl, rfl⟩⟩
  | handle => exact hs

theorem Effect.echoesWithinTx (h : Effect i s e s1) (hs : EchoesWithinTx s) : EchoesWithinTx s1 := by
  cases h with
  | quiet => exact hs
  | lost di rx bytes => exact FramesWithin.append_bytes hs bytes
  | echoed k => exact FramesWithin.append_frame hs _
  | driven => exact FramesWithin.append_frame hs _
  | handle => exact hs

/-- Both histories only grow. -/
theorem Effect.histories_grow (h : Effect i s e s1) :
    (∃ bytes, s1.txLog = s.txLog ++ bytes) ∧ ∃ frames, s1.echoLog = s.echoLog ++ frames := by
  cases h with
  | quiet => exact ⟨⟨[], by simp⟩, [], by simp⟩
  | lost di rx bytes => exact ⟨⟨bytes, rfl⟩, [], by simp⟩
  | echoed k => exact ⟨⟨_, rfl⟩, _, rfl⟩
  | driven => exact ⟨⟨_, rfl⟩, _, rfl⟩
  | handle => exact ⟨⟨[], by simp⟩, [], by simp⟩

theorem Effect.di_eq (h : Effect i s e s1) (hi : ¬ IsDirectionKey i) : s1.di = s.di := by
  cases h with
  | quiet di rx _ hd => exact hd.resolve_right hi
  | lost di rx bytes _ hd => exact hd.resolve_right hi
  | echoed => rfl
  | driven di vr vl hd => exact hd.resolve_right hi
  | handle => rfl

end

/-- A state with the block's registers and histories as at reset, and no response, has the invariant. -/
theorem inv_powerOn (s : State) : Inv (powerOn s) := by
  refine ⟨nofun, nofun, fun f hf => ?_, trivial⟩
  simp [State.reset] at hf

/-- Settles O49: the reset state is itself what reset leaves of it. -/
theorem invariantHoldsAtReset : Obligations.InvariantHoldsAtReset := inv_powerOn State.reset

/-- Settles O48: an idle step changes nothing, reset starts afresh, and any other step answers with a current response
over an effect that keeps each of the other parts. -/
theorem invariantKeptByEveryStep : Obligations.InvariantKeptByEveryStep := by
  intro s s' hinv h
  rcases step_next h with ⟨_, rfl⟩ | ⟨t, rest, _, _, rfl⟩ | ⟨t, rest, s1, r, _, rfl, hcur, heff⟩
  · exact hinv
  · exact inv_powerOn _
  · obtain ⟨_, hlast, hframes, htx⟩ := hinv
    rcases heff with rfl | ⟨i, heff⟩
    · exact ⟨hcur, hlast, hframes, htx⟩
    · exact ⟨hcur, heff.lastSentRecorded hlast, heff.echoesAreFrames hframes, heff.echoesWithinTx htx⟩

/-- Settles O45: each effect appends to the histories, and a reserved word leaves them. -/
theorem historiesOnlyGrow : Obligations.HistoriesOnlyGrow := by
  intro s s' hreset h
  rcases step_next h with ⟨_, rfl⟩ | ⟨t, rest, hs, ht, _⟩ | ⟨t, rest, s1, r, _, rfl, _, rfl | ⟨i, heff⟩⟩
  · exact ⟨⟨[], by simp⟩, [], by simp⟩
  · exact absurd ht (hreset t rest hs)
  · exact ⟨⟨[], by simp⟩, [], by simp⟩
  · exact heff.histories_grow

/-! ## What a response shows -/

/-- The bits of `di` in a response, by name (R10). -/
theorem intentBits_getElem (di : DriveIntent) :
    (intentBits di)[0] = di.f ∧ (intentBits di)[1] = di.b ∧ (intentBits di)[2] = di.l ∧ (intentBits di)[3] = di.r := by
  obtain ⟨f, b, l, r⟩ := di
  revert f b l r
  decide

/-- Settles O51: the response a turn leaves is current, and reset leaves none. -/
theorem responseShowsRegisters : Obligations.ResponseShowsRegisters := by
  refine ⟨intentBits_getElem, fun s s' t rest r hs h hr => ?_⟩
  rcases step_next h with ⟨hs', _⟩ | ⟨_, _, _, _, rfl⟩ | ⟨_, _, _, _, _, _, hcur, _⟩
  · rw [hs] at hs'
    cases hs'
  · cases hr
  · obtain ⟨_, hd, hh⟩ := hcur r hr
    obtain ⟨h0, h1, h2, h3⟩ := intentBits_getElem s'.di
    simp only [hd]
    exact ⟨h0, h1, h2, h3, hh⟩

/-- Settles O8: the reset input runs `powerOn`, which has the registers and histories of `State.reset`. -/
theorem resetLeaves : Obligations.ResetLeaves := by
  refine ⟨⟨rfl, rfl, rfl, rfl, rfl⟩, fun s t rest hs ht => ⟨powerOn (takeTurn t rest s), ?_, rfl, rfl, rfl, rfl, rfl⟩⟩
  exact step_of_decode_error hs (e := .resetInput) (by rw [ht]; rfl)

/-! ## The flags of DI -/

/-- A direction key event answers with the key's flag written and the others as before (R144 to R146). -/
theorem directionEvent_di (d : Direction) (v : Bool) (s : State) :
    ∃ s', directionEvent d v s = .next s' ∧ s'.di = setFlag s.di d v := by
  by_cases h : getFlag s.di d = v
  · exact ⟨_, directionEvent_same h, rfl⟩
  · rw [directionEvent_change h]
    rcases driveUpdate_cases (s.setDi (setFlag s.di d v)) with ⟨_, _, _, _, e⟩ | ⟨f, _, _, e⟩ <;> rw [e]
    · exact ⟨_, rfl, rfl⟩
    · rcases transmitDrive_cases f (s.setDi (setFlag s.di d v)) with ⟨_, _, _, e⟩ | ⟨_, _, _, e⟩ <;>
        exact ⟨_, e, rfl⟩

theorem exec_keyPress_di {sym : BitVec 4} {d : Direction} (h : directionOf sym = some d) (s : State) :
    ∃ s', exec (.keyPress sym) s = .next s' ∧ s'.di = setFlag s.di d true := by
  simp only [exec, execKeyPress, h]
  exact directionEvent_di d true s

theorem exec_keyRelease_di {sym : BitVec 4} {d : Direction} (h : directionOf sym = some d) (s : State) :
    ∃ s', exec (.keyRelease sym) s = .next s' ∧ s'.di = setFlag s.di d false := by
  simp only [exec, execKeyRelease, h]
  exact directionEvent_di d false s

/-- Settles O35: the four direction keys write their own flag, and no effect of another instruction has one. -/
theorem onlyMatchingKeysMoveIntent : Obligations.OnlyMatchingKeysMoveIntent := by
  refine ⟨fun s => ?_, fun i s s' h hkeys => ?_⟩
  · exact ⟨exec_keyPress_di (d := .forward) rfl s, exec_keyPress_di (d := .left) rfl s,
      exec_keyPress_di (d := .backward) rfl s, exec_keyPress_di (d := .right) rfl s,
      exec_keyRelease_di (d := .forward) rfl s, exec_keyRelease_di (d := .left) rfl s,
      exec_keyRelease_di (d := .backward) rfl s, exec_keyRelease_di (d := .right) rfl s⟩
  · obtain ⟨s1, r, rfl, _, heff⟩ := exec_next h
    refine heff.di_eq ?_
    rintro ⟨sym, hsym, hi⟩
    obtain ⟨hpress, hrelease⟩ := hkeys sym (toNat_lt_four_of_directionOf hsym)
    exact hi.elim hpress hrelease

/-! ## LS and H -/

/-- Settles O37: only two effects write `LS`, the handle's own and the transmission of a Drive frame. -/
theorem lastSentWrites : Obligations.LastSentWrites := by
  intro i s s' r h hr
  obtain ⟨s1, r', rfl, _, heff⟩ := exec_next h
  cases hr
  cases heff with
  | quiet _ _ hi => exact ⟨fun h => absurd h hi, fun _ h => absurd rfl h, fun _ => rfl⟩
  | lost _ _ _ hi => exact ⟨fun h => absurd h hi, fun _ h => absurd rfl h, fun _ => rfl⟩
  | echoed _ hi => exact ⟨fun h => absurd h hi, fun _ h => absurd rfl h, fun _ => rfl⟩
  | driven _ _ _ _ hi he =>
    exact ⟨fun h => absurd h hi.not_lifecycle, fun _ _ => ⟨rfl, rfl, rfl, hi⟩, fun h => absurd he h⟩
  | handle v hi he => exact ⟨fun _ => rfl, fun h => absurd (hi.imp And.left And.left) h, fun h => absurd he h⟩

/-- Who writes `H`, for an instruction (R15). -/
theorem Effect.handle_writes {i : Instr} {s s1 : State} {e : Status} (h : Effect i s e s1) :
    (i = .attach → s1.h = true) ∧ (i = .detach → s1.h = false) ∧ (e = .connectionLost → s1.h = false) ∧
    ((∃ t, i = .read t) → e = .formatError → s1.h = false) ∧
    (i ≠ .attach → i ≠ .detach → e ≠ .connectionLost → ¬ ((∃ t, i = .read t) ∧ e = .formatError) → s1.h = s.h) := by
  cases h with
  | quiet _ _ hi _ he hr =>
    exact ⟨fun h => absurd (.inl h) hi, fun h => absurd (.inr h) hi, fun h => absurd h he,
      fun ht h => absurd ⟨ht, h⟩ hr, fun _ _ _ _ => rfl⟩
  | lost _ _ _ hi _ he =>
    exact ⟨fun h => absurd (.inl h) hi, fun _ => rfl, fun _ => rfl, fun _ _ => rfl,
      fun _ _ hl hf => absurd he (not_or.2 ⟨hl, hf⟩)⟩
  | echoed _ hi he =>
    subst he
    exact ⟨fun h => absurd (.inl h) hi, fun h => absurd (.inr h) hi, nofun, fun _ => nofun, fun _ _ _ _ => rfl⟩
  | driven _ _ _ _ hi he =>
    subst he
    exact ⟨fun h => absurd (.inl h) hi.not_lifecycle, fun h => absurd (.inr h) hi.not_lifecycle, nofun,
      fun _ => nofun, fun _ _ _ _ => rfl⟩
  | handle v hi he =>
    rcases hi with ⟨rfl, rfl⟩ | ⟨rfl, rfl⟩ <;> simp [he]

/-! ## Reserved command words raise IllegalCommand (R65) -/

theorem opNumber_eq (w : CommandWord) : opNumber w = (fieldsOf w).op.toNat := by
  have := w.isLt
  simp only [opNumber, fieldsOf, BitVec.extractLsb'_toNat, Nat.shiftRight_eq_div_pow]
  omega

theorem aNumber_eq (w : CommandWord) : aNumber w = (fieldsOf w).a.toNat := by
  simp only [aNumber, fieldsOf, BitVec.extractLsb'_toNat, Nat.shiftRight_eq_div_pow]

theorem bNumber_eq (w : CommandWord) : bNumber w = (fieldsOf w).b.toNat := by
  simp [bNumber, fieldsOf]

/-- The upper bits of `B` are 0 exactly when `B`, as a number, has nothing there. -/
theorem extractLsb'_top_eq_zero (b : BitVec 32) {n m : Nat} (h : n + m = 32) :
    b.extractLsb' n m = 0 ↔ b.toNat / 2 ^ n = 0 := by
  have hlt : b.toNat / 2 ^ n < 2 ^ m := Nat.div_lt_of_lt_mul (by rw [← Nat.pow_add, h]; exact b.isLt)
  rw [← BitVec.toNat_inj, BitVec.extractLsb'_toNat, Nat.shiftRight_eq_div_pow, Nat.mod_eq_of_lt hlt]
  simp

section

variable {f : Fields}

theorem decodeFields_unknown (hN : f.op.toNat ∉ codesN) (hO : f.op.toNat ∉ codesOperand) :
    decodeFields f = .error .unknownOperation := by
  unfold decodeFields
  split <;> simp_all [codesN, codesOperand]

theorem decodeFields_formatN (h : f.op.toNat ∈ codesN) : ∃ i, decodeFields f = formatN f i := by
  simp only [codesN, List.mem_cons, List.not_mem_nil, or_false] at h
  rcases h with h | h | h | h | h | h | h | h | h | h | h | h | h | h | h | h <;>
    exact ⟨_, by simp only [decodeFields, h]; rfl⟩

theorem decodeFields_formatK (h : f.op.toNat ∈ [0x30, 0x31]) : ∃ mk, decodeFields f = formatK f mk := by
  simp only [List.mem_cons, List.not_mem_nil, or_false] at h
  rcases h with h | h <;> exact ⟨_, by simp only [decodeFields, h]; rfl⟩

theorem decodeFields_formatR (h : f.op.toNat = 0x40) : decodeFields f = formatR f := by simp only [decodeFields, h]

theorem decodeFields_formatE (h : f.op.toNat = 0x50) : decodeFields f = formatE f := by simp only [decodeFields, h]

theorem decodeFields_formatX (h : f.op.toNat = 0x51) : decodeFields f = formatX f := by simp only [decodeFields, h]

end

/-- A reserved word is no instruction, and the decoder's reason is one of those that raise IllegalCommand. -/
theorem decodeCommand_reserved {w : CommandWord} (h : reserved w) :
    ∃ e, e ≠ .notAFrame ∧ e ≠ .resetInput ∧ decodeCommand w = .error e := by
  have hzero (b : BitVec 32) : b = 0 ↔ b.toNat = 0 := by rw [← BitVec.toNat_inj]; rfl
  simp only [reserved, opNumber_eq, aNumber_eq, bNumber_eq] at h
  rw [decodeCommand]
  generalize fieldsOf w = f at h ⊢
  rcases h with ⟨hN, hO⟩ | ⟨hop, h⟩ | ⟨hop, h⟩ | ⟨hop, h⟩ | ⟨hop, h⟩ | ⟨hop, h⟩
  · exact ⟨_, by decide, by decide, decodeFields_unknown hN hO⟩
  · obtain ⟨i, e⟩ := decodeFields_formatN hop
    refine ⟨.mustBeZero, by decide, by decide, ?_⟩
    rw [e, formatN, if_neg]
    rw [hzero, hzero]
    omega
  · obtain ⟨mk, e⟩ := decodeFields_formatK hop
    refine ⟨.mustBeZero, by decide, by decide, ?_⟩
    rw [e, formatK, if_neg]
    rw [hzero, extractLsb'_top_eq_zero _ rfl]
    omega
  · refine ⟨.mustBeZero, by decide, by decide, ?_⟩
    rw [decodeFields_formatR hop, formatR, if_neg]
    rw [hzero, extractLsb'_top_eq_zero _ rfl]
    omega
  · refine ⟨.mustBeZero, by decide, by decide, ?_⟩
    rw [decodeFields_formatE hop, formatE, if_neg]
    rw [extractLsb'_top_eq_zero _ rfl]
    omega
  · rw [decodeFields_formatX hop, formatX]
    by_cases hb : f.b.extractLsb' 5 27 = 0
    · have hcount : 5 ≤ (f.b.extractLsb' 2 3).toNat := by
        rw [extractLsb'_top_eq_zero _ rfl] at hb
        rw [BitVec.extractLsb'_toNat, Nat.shiftRight_eq_div_pow]
        omega
      exact ⟨.badCount, by decide, by decide, by rw [if_pos hb, if_neg (by omega)]⟩
    · exact ⟨.mustBeZero, by decide, by decide, if_neg hb⟩

/-- A reserved word raises IllegalCommand with no register written (R65, R184). -/
theorem step_reserved {s : State} {t : Turn} {rest : List Turn} {w : CommandWord} (hs : s.script = t :: rest)
    (ht : t.signal = .command w) (hw : reserved w) : step s = raise .illegalCommand (takeTurn t rest s) := by
  obtain ⟨e, hframe, hreset, he⟩ := decodeCommand_reserved hw
  rw [step_of_decode_error hs (e := e) (by rw [ht]; exact he)]
  rcases undecoded_cases e (takeTurn t rest s) with ⟨_, _, u⟩ | ⟨h, _⟩ | ⟨h, _⟩
  · exact u
  · exact absurd h hframe
  · exact absurd h hreset

/-- Settles O38: `H` by the effect of the instruction, and a reserved word has none. -/
theorem handleWrites : Obligations.HandleWrites := by
  refine ⟨fun i s s' r h hr => ?_, fun w s t rest hs ht hw => ⟨_, step_reserved hs ht hw, rfl⟩⟩
  obtain ⟨s1, r', rfl, _, heff⟩ := exec_next h
  cases hr
  exact heff.handle_writes

end Sys2Proof.Machine

/-! SUPPORT. The transport (spec section 20): what its two primitives and `send` do, and that an operation with an
invalid handle consults none of them. -/

namespace Sys2Proof.Machine

open Sys2Proof.Safety

/-! ## Writing to TX -/

theorem txWrite_of_ok {s : State} (h : s.answers.tx = .ok) (f : Frame) : txWrite f s = (true, s.appendTx f) := by
  simp only [txWrite, h]

theorem txWrite_of_fault {s : State} {k : Nat} (h : s.answers.tx = .fault k) (f : Frame) :
    txWrite f s = (false, s.appendTx (f.take k)) := by
  simp only [txWrite, h]

/-- Settles O22: a fault after `k` bytes leaves the first `min k (length f)` on TX, and so `.fault m` reaches each `m`. -/
theorem txWriteMeaning : Obligations.TxWriteMeaning := by
  refine fun f s => ⟨fun h => txWrite_of_ok h f, fun k h => ?_, fun m _ => ?_⟩
  · refine ⟨min k f.length, Nat.min_le_right .., ?_⟩
    rw [txWrite_of_fault h, ← List.take_eq_take_min]
    rfl
  · exact ⟨{ isOpen := true, tx := .fault m, rx := .serve }, txWrite_of_fault rfl f⟩

theorem send_of_invalid {s : State} (h : s.h = false) (f : Frame) : send f s = .lost s := by
  simp [send, h]

theorem send_of_closed {s : State} (h : s.h = true) (ho : s.answers.isOpen = false) (f : Frame) :
    send f s = .lost (s.setHandle false) := by
  simp [send, isOpen, h, ho]

theorem send_of_fault {s : State} {k : Nat} (h : s.h = true) (ho : s.answers.isOpen = true)
    (ht : s.answers.tx = .fault k) (f : Frame) : send f s = .lost ((s.appendTx (f.take k)).setHandle false) := by
  simp [send, isOpen, h, ho, txWrite_of_fault ht]

theorem send_of_ok {s : State} (h : s.h = true) (ho : s.answers.isOpen = true) (ht : s.answers.tx = .ok) (f : Frame) :
    send f s = .ok ((s.appendTx f).appendEcho f) := by
  simp [send, isOpen, h, ho, txWrite_of_ok ht]

/-- Settles O21, by the four ways `send` ends. -/
theorem sendMeaning : Obligations.SendMeaning := fun f _ =>
  ⟨fun h => send_of_invalid h f, fun h ho => send_of_closed h ho f, fun _ h ho ht => send_of_fault h ho ht f,
    fun h ho ht => send_of_ok h ho ht f⟩

/-! ## Reading from RX -/

section

variable {n : Nat} {s s' : State}

theorem rxReadExact_eq_bytes {bs : List Byte} (h : rxReadExact n s = .bytes bs s') :
    n ≤ s.rx.length ∧ bs = s.rx.take n ∧ s' = s.setRx (s.rx.drop n) := by
  rcases rxReadExact_cases n s with ⟨_, hn, e⟩ | ⟨_, _, e⟩ | ⟨_, _, e⟩ | ⟨_, _, e⟩ | ⟨_, e⟩ <;>
    rw [e] at h <;> cases h
  exact ⟨hn, rfl, rfl⟩

/-- A short read takes fewer bytes than it was asked for: all there are, or as many as the transport says. -/
theorem rxReadExact_eq_short (hn : 0 < n) (h : rxReadExact n s = .short s') :
    ∃ m, (s.rx.take m).length < n ∧ s' = s.setRx (s.rx.drop m) := by
  rcases rxReadExact_cases n s with ⟨_, _, e⟩ | ⟨_, hl, e⟩ | ⟨k, _, e⟩ | ⟨_, _, e⟩ | ⟨_, e⟩ <;>
    rw [e] at h <;> cases h
  · exact ⟨s.rx.length, by rwa [List.take_length], by rw [List.drop_length]⟩
  · exact ⟨min k (n - 1), by rw [List.length_take]; omega, rfl⟩

theorem rxReadExact_eq_fault (h : rxReadExact n s = .fault s') : ∃ m, s' = s.setRx (s.rx.drop m) := by
  rcases rxReadExact_cases n s with ⟨_, _, e⟩ | ⟨_, _, e⟩ | ⟨_, _, e⟩ | ⟨k, _, e⟩ | ⟨_, e⟩ <;>
    rw [e] at h <;> cases h
  exact ⟨k, rfl⟩

end

/-- An open transport that answers a read with `r`. -/
def readAnswers (r : RxAnswer) : Answers := { isOpen := true, tx := .ok, rx := r }

section

variable (s : State) (bs rest : List Byte)

theorem rxReadExact_serve :
    rxReadExact bs.length { s with rx := bs ++ rest, answers := readAnswers .serve } =
      .bytes bs { s with rx := rest, answers := readAnswers .serve } := by
  simp [rxReadExact, readAnswers, State.setRx]

theorem rxReadExact_short {n : Nat} (h : bs.length < n) :
    rxReadExact n { s with rx := bs ++ rest, answers := readAnswers (.short bs.length) } =
      .short { s with rx := rest, answers := readAnswers (.short bs.length) } := by
  have hmin : min bs.length (n - 1) = bs.length := by omega
  simp [rxReadExact, readAnswers, State.setRx, hmin]

theorem rxReadExact_fault (n : Nat) :
    rxReadExact n { s with rx := bs ++ rest, answers := readAnswers (.fault bs.length) } =
      .fault { s with rx := rest, answers := readAnswers (.fault bs.length) } := by
  simp [rxReadExact, readAnswers, State.setRx]

end

/-- Settles O23: each answer takes a first part of RX, and the answers `serve`, `short` and `fault`, the last two with
the number of bytes to take, reach every outcome. -/
theorem rxReadExactMeaning : Obligations.RxReadExactMeaning := by
  intro n s hn
  refine ⟨fun bs s' h => ?_, fun s' h => ?_, fun s' h => ?_, fun bs rest h => ?_,
    fun bs rest h => ⟨_, rxReadExact_short s bs rest h⟩, fun bs rest => ⟨_, rxReadExact_fault s bs rest n⟩⟩
  · obtain ⟨hle, rfl, rfl⟩ := rxReadExact_eq_bytes h
    exact ⟨List.length_take_of_le hle, (List.take_append_drop n s.rx).symm, rfl⟩
  · obtain ⟨m, hlt, rfl⟩ := rxReadExact_eq_short (by omega) h
    exact ⟨_, hlt, (List.take_append_drop m s.rx).symm, rfl⟩
  · obtain ⟨m, rfl⟩ := rxReadExact_eq_fault h
    exact ⟨_, (List.take_append_drop m s.rx).symm, rfl⟩
  · subst h
    exact ⟨_, rxReadExact_serve s bs rest⟩

/-! ## With an invalid handle the transport has no part -/

/-- The state with other answers of the transport and another receive side. -/
def State.withTransport (s : State) (a : Answers) (bytes : List Byte) : State := { s with answers := a, rx := bytes }

@[simp] theorem State.withTransport_ls (s : State) (a : Answers) (bytes : List Byte) :
    (s.withTransport a bytes).ls = s.ls := rfl

/-- The outcome of `op` in `s` does not depend on the transport's answers and the receive side, which stay as given. -/
def IgnoresTransport (op : State → Result) (s : State) : Prop :=
  ∀ a bytes, op (s.withTransport a bytes) = mapNext (fun s' => s'.withTransport a bytes) (op s)

theorem raise_ignoresTransport (e : Status) (s : State) : IgnoresTransport (raise e) s := fun _ _ => rfl

theorem respondNone_ignoresTransport (s : State) : IgnoresTransport respondNone s := fun _ _ => rfl

theorem respondValue_ignoresTransport (t : IntType) (v : Int) (s : State) : IgnoresTransport (respondValue t v) s :=
  fun _ _ => rfl

theorem answerBytes_ignoresTransport (r : Except Status Frame) (s : State) : IgnoresTransport (answerBytes r) s := by
  cases r with
  | ok f => exact fun _ _ => rfl
  | error e => exact raise_ignoresTransport e s

theorem execEncDrive_ignoresTransport (vr vl : BitVec 32) (s : State) : IgnoresTransport (execEncDrive vr vl) s := by
  unfold execEncDrive
  cases encodeOperands vr vl with
  | ok f => exact answerBytes_ignoresTransport (.ok f.toList) s
  | error e => exact answerBytes_ignoresTransport (.error e) s

theorem execDecint_ignoresTransport (bs : List Byte) (t : IntType) (s : State) :
    IgnoresTransport (execDecint bs t) s := by
  unfold execDecint
  cases decodeInt t bs with
  | ok v => exact respondValue_ignoresTransport t v s
  | error e => exact raise_ignoresTransport e s

section

variable {s : State} (h : s.h = false)
include h

/-- With an invalid handle an operation that only raises ConnectionLost ignores the transport. -/
theorem ignoresTransport_of_lost {op : State → Result} (hop : ∀ s, s.h = false → op s = raise .connectionLost s) :
    IgnoresTransport op s := by
  intro a bytes
  rw [hop (s.withTransport a bytes) h, hop s h]
  exact raise_ignoresTransport .connectionLost s a bytes

theorem transmit_ignoresTransport (f : Frame) : IgnoresTransport (transmit f) s :=
  ignoresTransport_of_lost h fun s hs => by rw [transmit, send_of_invalid hs]

theorem transmitDrive_ignoresTransport (f : Vector Byte 5) : IgnoresTransport (transmitDrive f) s :=
  ignoresTransport_of_lost h fun s hs => by rw [transmitDrive, send_of_invalid hs]

theorem execRead_ignoresTransport (t : IntType) : IgnoresTransport (execRead t) s :=
  ignoresTransport_of_lost h fun s hs => by simp [execRead, hs]

theorem execTxDrive_ignoresTransport (vr vl : BitVec 32) : IgnoresTransport (execTxDrive vr vl) s := by
  unfold execTxDrive
  cases encodeOperands vr vl with
  | ok f => exact transmitDrive_ignoresTransport h f
  | error e => exact raise_ignoresTransport e s

theorem driveUpdate_ignoresTransport : IgnoresTransport driveUpdate s := by
  intro a bytes
  obtain ⟨f, hf, hu⟩ := driveUpdate_spec s
  rw [hu, driveUpdate_of_frame (s := s.withTransport a bytes) hf, State.withTransport_ls]
  by_cases hdup : s.ls.valid = true ∧ s.ls.frame = f
  · rw [if_pos hdup, if_pos hdup]
    exact respondNone_ignoresTransport s a bytes
  · rw [if_neg hdup, if_neg hdup]
    exact transmitDrive_ignoresTransport h f a bytes

/-- The flag is written before the handle is looked at (R144 a). -/
theorem directionEvent_ignoresTransport (d : Direction) (v : Bool) : IgnoresTransport (directionEvent d v) s := by
  intro a bytes
  by_cases hsame : getFlag s.di d = v
  · rw [directionEvent_same hsame, directionEvent_same (s := s.withTransport a bytes) hsame]
    exact respondNone_ignoresTransport (s.setDi (setFlag s.di d v)) a bytes
  · rw [directionEvent_change hsame, directionEvent_change (s := s.withTransport a bytes) hsame]
    exact driveUpdate_ignoresTransport (s := s.setDi (setFlag s.di d v)) h a bytes

theorem execKeyPress_ignoresTransport (sym : BitVec 4) : IgnoresTransport (execKeyPress sym) s := by
  unfold execKeyPress
  cases directionOf sym with
  | some d => exact directionEvent_ignoresTransport h d true
  | none =>
    cases cfg.keymap sym with
    | some k => exact transmit_ignoresTransport h (frameOf cfg k)
    | none => exact respondNone_ignoresTransport s

theorem execKeyRelease_ignoresTransport (sym : BitVec 4) : IgnoresTransport (execKeyRelease sym) s := by
  unfold execKeyRelease
  cases directionOf sym with
  | some d => exact directionEvent_ignoresTransport h d false
  | none => exact respondNone_ignoresTransport s

theorem exec_ignoresTransport (i : Instr) : IgnoresTransport (exec i) s := by
  cases i with
  | attach | detach => exact fun _ _ => rfl
  | encPassive | encSafe | encFull | encClean | encDock | encReset | encBeep =>
    exact answerBytes_ignoresTransport (.ok _) s
  | encDrive vr vl => exact execEncDrive_ignoresTransport vr vl s
  | encint value t => exact answerBytes_ignoresTransport (encodeInt t (operandValue value)) s
  | decint bs t => exact execDecint_ignoresTransport bs t s
  | txPassive | txSafe | txFull | txClean | txDock | txReset | txBeep | wirePassive | wireSafe | wireFull | wireClean
  | wireDock | wireReset | wireBeep => exact transmit_ignoresTransport h _
  | txDrive vr vl => exact execTxDrive_ignoresTransport h vr vl
  | wireDrive vr vl => exact transmitDrive_ignoresTransport h (driveBytes cfg vr vl)
  | keyPress sym => exact execKeyPress_ignoresTransport h sym
  | keyRelease sym => exact execKeyRelease_ignoresTransport h sym
  | read t => exact execRead_ignoresTransport h t

end

/-- Settles O25: what looks at the handle raises ConnectionLost before it consults the transport, and nothing else
consults it. -/
theorem invalidHandleNeverConsultsTransport : Obligations.InvalidHandleNeverConsultsTransport :=
  fun i _ a bytes h => exec_ignoresTransport h i a bytes

end Sys2Proof.Machine

/-! SUPPORT. The encoding (spec section 30): the decoder undoes the encoder on command words and on wire frames, a word
that decodes is the encoding of what it decodes to, and TX carries the frames that were echoed. -/

namespace Sys2Proof.Machine

open Sys2Proof.Safety

/-! ## Fields of bit vectors -/

theorem toNat_append_eq_add {n m : Nat} (x : BitVec n) (y : BitVec m) :
    (x ++ y).toNat = x.toNat * 2 ^ m + y.toNat := by
  rw [BitVec.toNat_append, ← Nat.shiftLeft_add_eq_or_of_lt y.isLt, Nat.shiftLeft_eq]

theorem extractLsb'_extractLsb' {w k n i l : Nat} (u : BitVec w) (h : k + n ≤ l) :
    (u.extractLsb' i l).extractLsb' k n = u.extractLsb' (i + k) n := by
  ext j hj
  have hlt : k + j < l := by omega
  simp [hlt, Nat.add_assoc]

/-- The four bytes of `A` read back as they were placed (R61). -/
theorem bytesOfA_append (b0 b1 b2 b3 : Byte) : bytesOfA (b0 ++ b1 ++ b2 ++ b3) = [b0, b1, b2, b3] := by
  have h0 := b0.isLt
  have h1 := b1.isLt
  have h2 := b2.isLt
  have h3 := b3.isLt
  have hn : (b0 ++ b1 ++ b2 ++ b3 : BitVec 32).toNat =
      ((b0.toNat * 2 ^ 8 + b1.toNat) * 2 ^ 8 + b2.toNat) * 2 ^ 8 + b3.toNat := by
    rw [toNat_append_eq_add, toNat_append_eq_add, toNat_append_eq_add]
  simp only [bytesOfA, List.cons.injEq, and_true]
  refine ⟨?_, ?_, ?_, ?_⟩ <;>
  · apply BitVec.eq_of_toNat_eq
    rw [BitVec.extractLsb'_toNat, hn, Nat.shiftRight_eq_div_pow]
    omega

theorem bytesOfA_placeBytes {bs : List Byte} (h : bs.length ≤ 4) : (bytesOfA (placeBytes bs)).take bs.length = bs := by
  rw [placeBytes, bytesOfA_append]
  match bs, h with
  | [], _ | [_], _ | [_, _], _ | [_, _, _], _ | [_, _, _, _], _ => rfl

/-- Field `A` of a word, byte by byte (R57, R61). -/
theorem bytesOfA_fieldsOf (u : CommandWord) :
    bytesOfA (fieldsOf u).a = [u.extractLsb' 56 8, u.extractLsb' 48 8, u.extractLsb' 40 8, u.extractLsb' 32 8] := by
  simp [bytesOfA, fieldsOf, extractLsb'_extractLsb']

/-- A key symbol stands alone in the four lowest bits of `B` (R62). -/
theorem setWidth_key_fields (sym : BitVec 4) :
    (sym.setWidth 32).extractLsb' 4 28 = 0 ∧ (sym.setWidth 32).extractLsb' 0 4 = sym := by
  revert sym
  decide

theorem setWidth_extractLsb'_key {b : BitVec 32} (h : b.extractLsb' 4 28 = 0) :
    (b.extractLsb' 0 4).setWidth 32 = b := by
  rw [extractLsb'_top_eq_zero b rfl] at h
  apply BitVec.eq_of_toNat_eq
  rw [BitVec.toNat_setWidth, BitVec.extractLsb'_toNat, Nat.shiftRight_zero]
  omega

/-! ## The type bits (R67) -/

theorem toNat_typeBits_lt (t : IntType) : (typeBits t).toNat < 4 := by
  obtain ⟨w, s⟩ := t
  cases w <;> cases s <;> decide

theorem typeBits_top_eq_zero (t : IntType) : (typeBits t).extractLsb' 2 30 = 0 := by
  have := toNat_typeBits_lt t
  rw [extractLsb'_top_eq_zero _ rfl]
  omega

/-- The type is read from the two lowest bits of `B`. -/
theorem toNat_typeBits_typeOf (b : BitVec 32) : (typeBits (typeOf b)).toNat = b.toNat % 4 := by
  have h0 : b.getLsbD 0 = decide (b.toNat % 2 = 1) := by rw [← BitVec.testBit_toNat, Nat.testBit_zero]
  have h1 : b.getLsbD 1 = decide (b.toNat / 2 % 2 = 1) := by
    rw [← BitVec.testBit_toNat, Nat.testBit_succ, Nat.testBit_zero]
  rw [typeOf, h0, h1]
  by_cases hw : b.toNat % 2 = 1 <;> by_cases hs : b.toNat / 2 % 2 = 1 <;> simp [hw, hs, typeBits] <;> omega

theorem typeBits_typeOf {b : BitVec 32} (h : b.extractLsb' 2 30 = 0) : typeBits (typeOf b) = b := by
  rw [extractLsb'_top_eq_zero b rfl] at h
  apply BitVec.eq_of_toNat_eq
  rw [toNat_typeBits_typeOf]
  omega

/-! ## The count and the type of DECINT (R61) -/

theorem toNat_countBits {n : Nat} (h : n < 8) (t : IntType) :
    (BitVec.ofNat 32 (4 * n) + typeBits t).toNat = 4 * n + (typeBits t).toNat := by
  have := toNat_typeBits_lt t
  rw [BitVec.toNat_add, BitVec.toNat_ofNat]
  omega

theorem countBits_top_eq_zero {n : Nat} (h : n < 8) (t : IntType) :
    (BitVec.ofNat 32 (4 * n) + typeBits t).extractLsb' 5 27 = 0 := by
  have := toNat_typeBits_lt t
  rw [extractLsb'_top_eq_zero _ rfl, toNat_countBits h]
  omega

theorem typeOf_countBits {n : Nat} (h : n < 8) (t : IntType) :
    typeOf (BitVec.ofNat 32 (4 * n) + typeBits t) = t := by
  have := toNat_typeBits_lt t
  have htype : typeBits (typeOf (BitVec.ofNat 32 (4 * n) + typeBits t)) = typeBits t := by
    apply BitVec.eq_of_toNat_eq
    rw [toNat_typeBits_typeOf, toNat_countBits h]
    omega
  rw [← typeOf_typeBits (typeOf _), htype, typeOf_typeBits]

theorem countBits_of_fields {b : BitVec 32} (h : b.extractLsb' 5 27 = 0) :
    BitVec.ofNat 32 (4 * (b.extractLsb' 2 3).toNat) + typeBits (typeOf b) = b := by
  rw [extractLsb'_top_eq_zero b rfl] at h
  apply BitVec.eq_of_toNat_eq
  rw [toNat_countBits (BitVec.isLt _), toNat_typeBits_typeOf, BitVec.extractLsb'_toNat, Nat.shiftRight_eq_div_pow]
  omega

/-! ## Decoding a command word of an encoding -/

theorem decode_packFields (f : Fields) : decode (.command (packFields f)) = decodeFields f := by
  rw [decode, decodeCommand, fieldsOf_packFields]

theorem formatK_key (op : BitVec 8) (sym : BitVec 4) (mk : BitVec 4 → Instr) :
    formatK ⟨op, 0, sym.setWidth 32⟩ mk = .ok (mk sym) := by
  obtain ⟨htop, hsym⟩ := setWidth_key_fields sym
  rw [formatK, if_pos ⟨rfl, htop⟩, hsym]

theorem formatR_type (op : BitVec 8) (t : IntType) : formatR ⟨op, 0, typeBits t⟩ = .ok (.read t) := by
  rw [formatR, if_pos ⟨rfl, typeBits_top_eq_zero t⟩, typeOf_typeBits]

theorem formatE_type (op : BitVec 8) (value : BitVec 32) (t : IntType) :
    formatE ⟨op, value, typeBits t⟩ = .ok (.encint value t) := by
  rw [formatE, if_pos (typeBits_top_eq_zero t), typeOf_typeBits]

theorem formatX_count (op : BitVec 8) (a : BitVec 32) {n : Nat} (h : n ≤ 4) (t : IntType) :
    formatX ⟨op, a, BitVec.ofNat 32 (4 * n) + typeBits t⟩ = .ok (.decint ((bytesOfA a).take n) t) := by
  have hn : n < 8 := by omega
  rw [formatX, if_pos (countBits_top_eq_zero hn t), (Laws.TableRow.countBits n h t).2, if_pos h, typeOf_countBits hn]

/-! ## Decoding wire frames -/

/-- The frame at the head is told from its first byte, whatever stands behind it (R54). -/
theorem decodeFrame_wireBytes {i : Instr} (hi : isWire i = true) (rest : Frame) :
    decodeFrame (wireBytes i ++ rest) = .ok (i, rest) := by
  cases i with
  | wirePassive | wireSafe | wireFull | wireClean | wireDock | wireReset | wireBeep => rfl
  | wireDrive vr vl =>
    calc decodeFrame (wireBytes (.wireDrive vr vl) ++ rest)
        = .ok (.wireDrive (vr.extractLsb' 8 8 ++ vr.extractLsb' 0 8)
            (vl.extractLsb' 8 8 ++ vl.extractLsb' 0 8), rest) := rfl
      _ = .ok (.wireDrive vr vl, rest) := by rw [high_append_low, high_append_low]
  | _ => cases hi

theorem decodeWhole_wireBytes {i : Instr} (hi : isWire i = true) : decodeWhole (wireBytes i) = .ok i := by
  have h := decodeFrame_wireBytes hi []
  rw [List.append_nil] at h
  rw [decodeWhole, h]

/-- A wire frame is encoded by its bytes (R51). -/
theorem encode_of_isWire {i : Instr} (hi : isWire i = true) : encode i = .frame (wireBytes i) := by
  cases i with
  | wirePassive | wireSafe | wireFull | wireClean | wireDock | wireReset | wireBeep | wireDrive => rfl
  | _ => cases hi

theorem decode_encode_of_isWire {i : Instr} (hi : isWire i = true) : decode (encode i) = .ok i := by
  rw [encode_of_isWire hi, decode, decodeWhole_wireBytes hi]

/-- What is encoded by a command word is no wire frame. -/
theorem isWire_of_encode_command {i : Instr} {w : CommandWord} (h : encode i = .command w) : isWire i = false := by
  by_contra hi
  rw [encode_of_isWire (Bool.eq_true_of_not_eq_false hi)] at h
  cases h

/-- Settles O2, format by format: each field of the word is read back as it was placed. -/
theorem decodeOfEncodeIsIdentity : Obligations.DecodeOfEncodeIsIdentity := by
  intro i hwf
  cases i with
  | attach | detach | encPassive | encSafe | encFull | encClean | encDock | encReset | encBeep | txPassive | txSafe
  | txFull | txClean | txDock | txReset | txBeep => exact decode_packFields _
  | encDrive vr vl | txDrive vr vl => exact decode_packFields _
  | keyPress sym | keyRelease sym => exact (decode_packFields _).trans (formatK_key _ sym _)
  | read t => exact (decode_packFields _).trans (formatR_type _ t)
  | encint value t => exact (decode_packFields _).trans (formatE_type _ value t)
  | decint bs t =>
    have hlen : bs.length ≤ 4 := of_decide_eq_true hwf
    refine (decode_packFields _).trans ((formatX_count _ _ hlen t).trans ?_)
    rw [bytesOfA_placeBytes hlen]
  | wirePassive | wireSafe | wireFull | wireClean | wireDock | wireReset | wireBeep | wireDrive =>
    exact decode_encode_of_isWire rfl

/-! ## Cutting a log into its frames -/

/-- A frame at the head is cut off, and the rest is cut with one frame less to go. -/
theorem cutFrames_of_decodeFrame {bs rest : Frame} {i : Instr} {is : List Instr} {n : Nat}
    (hi : decodeFrame bs = .ok (i, rest)) (his : cutFrames n rest = .ok is) : cutFrames (n + 1) bs = .ok (i :: is) := by
  cases bs with
  | nil => cases hi
  | cons b more => simp only [cutFrames, hi, his]

/-- Settles O47, by induction on the frames: the first is told from its first byte whatever follows. -/
theorem framesAreCutBack : Obligations.FramesAreCutBack := by
  intro frames hwire
  induction frames with
  | nil => rfl
  | cons i is ih =>
    obtain ⟨hi, his⟩ := List.forall_mem_cons.1 hwire
    exact cutFrames_of_decodeFrame (decodeFrame_wireBytes hi _) (ih his)

/-! ## A command word that decodes (R57 to R65) -/

/-- What the fields `f` of a word that decodes to `i` are: those of the encoding of `i`, or those of DECINT with the
bytes of `i` in front in `A`. -/
def ReadsAs (f : Fields) (i : Instr) : Prop :=
  (∀ bs t, i ≠ .decint bs t) ∧ encode i = .command (packFields f) ∨
  ∃ bs t, i = .decint bs t ∧ bs.length ≤ 4 ∧ f.op = 0x51 ∧ (bytesOfA f.a).take bs.length = bs ∧
    f.b = BitVec.ofNat 32 (4 * bs.length) + typeBits t

section

variable {f : Fields} {i : Instr} {op : BitVec 8}

theorem op_eq_of_toNat {n : Nat} (hop : f.op.toNat = n) : f.op = BitVec.ofNat 8 n := by
  rw [← hop, BitVec.ofNat_toNat, BitVec.setWidth_eq]

theorem formatN_readsAs {j : Instr} (h : formatN f j = .ok i) (hop : f.op = op) (hj : encode j = wordN op)
    (hd : ∀ bs t, j ≠ .decint bs t) : ReadsAs f i := by
  obtain ⟨fop, a, b⟩ := f
  cases hop
  rw [formatN] at h
  split at h
  next hzero =>
    obtain ⟨rfl, rfl⟩ := hzero
    cases h
    exact .inl ⟨hd, hj⟩
  next => cases h

theorem formatD_readsAs {mk : BitVec 32 → BitVec 32 → Instr} (h : formatD f mk = .ok i) (hop : f.op = op)
    (hmk : ∀ a b, encode (mk a b) = .command (packFields ⟨op, a, b⟩)) (hd : ∀ a b bs t, mk a b ≠ .decint bs t) :
    ReadsAs f i := by
  cases hop
  cases h
  exact .inl ⟨hd _ _, hmk _ _⟩

theorem formatK_readsAs {mk : BitVec 4 → Instr} (h : formatK f mk = .ok i) (hop : f.op = op)
    (hmk : ∀ sym, encode (mk sym) = .command (packFields ⟨op, 0, sym.setWidth 32⟩))
    (hd : ∀ sym bs t, mk sym ≠ .decint bs t) : ReadsAs f i := by
  obtain ⟨fop, a, b⟩ := f
  cases hop
  rw [formatK] at h
  split at h
  next hzero =>
    obtain ⟨rfl, htop⟩ := hzero
    cases h
    exact .inl ⟨hd _, by rw [hmk, setWidth_extractLsb'_key htop]⟩
  next => cases h

theorem formatR_readsAs (h : formatR f = .ok i) (hop : f.op = op)
    (henc : ∀ t, encode (.read t) = .command (packFields ⟨op, 0, typeBits t⟩)) : ReadsAs f i := by
  obtain ⟨fop, a, b⟩ := f
  cases hop
  rw [formatR] at h
  split at h
  next hzero =>
    obtain ⟨rfl, htop⟩ := hzero
    cases h
    exact .inl ⟨nofun, by rw [henc, typeBits_typeOf htop]⟩
  next => cases h

theorem formatE_readsAs (h : formatE f = .ok i) (hop : f.op = op)
    (henc : ∀ v t, encode (.encint v t) = .command (packFields ⟨op, v, typeBits t⟩)) : ReadsAs f i := by
  cases hop
  rw [formatE] at h
  split at h
  next htop =>
    cases h
    exact .inl ⟨nofun, by rw [henc, typeBits_typeOf htop]⟩
  next => cases h

theorem formatX_readsAs (h : formatX f = .ok i) (hop : f.op = 0x51) : ReadsAs f i := by
  rw [formatX] at h
  split at h
  next htop =>
    split at h
    next hcount =>
      cases h
      have hlen : ((bytesOfA f.a).take (f.b.extractLsb' 2 3).toNat).length = (f.b.extractLsb' 2 3).toNat :=
        List.length_take_of_le hcount
      refine .inr ⟨_, _, rfl, hlen.trans_le hcount, hop, ?_, ?_⟩ <;> rw [hlen]
      exact (countBits_of_fields htop).symm
    next => cases h
  next => cases h

/-- The code map, read backwards (R64). -/
theorem decodeFields_readsAs (h : decodeFields f = .ok i) : ReadsAs f i := by
  unfold decodeFields at h
  split at h
  case h_10 hop | h_18 hop => exact formatD_readsAs h (op_eq_of_toNat hop) (fun _ _ => rfl) nofun
  case h_19 hop | h_20 hop => exact formatK_readsAs h (op_eq_of_toNat hop) (fun _ => rfl) nofun
  case h_21 hop => exact formatR_readsAs h (op_eq_of_toNat hop) fun _ => rfl
  case h_22 hop => exact formatE_readsAs h (op_eq_of_toNat hop) fun _ _ => rfl
  case h_23 hop => exact formatX_readsAs h (op_eq_of_toNat hop)
  case h_24 => cases h
  all_goals
    next hop => exact formatN_readsAs h (op_eq_of_toNat hop) rfl nofun

end

theorem wf_of_ne_decint {i : Instr} (h : ∀ bs t, i ≠ .decint bs t) : i.wf = true := by
  cases i with
  | decint bs t => exact absurd rfl (h bs t)
  | _ => rfl

/-- Settles O3: a word is its fields, and the fields of a word of DECINT are those of the encoding but for `A`, in which
both have the bytes presented in front. -/
theorem wordDecodesOnlyAsItsEncoding : Obligations.WordDecodesOnlyAsItsEncoding := by
  intro w i h
  rcases decodeFields_readsAs h with ⟨hne, henc⟩ | ⟨bs, t, rfl, hlen, hop, ha, hb⟩
  · rw [packFields_fieldsOf] at henc
    exact ⟨wf_of_ne_decint hne, isWire_of_encode_command henc, fun _ => henc, fun bs t hi => absurd hi (hne bs t)⟩
  · refine ⟨decide_eq_true hlen, rfl, fun hne => absurd rfl (hne bs t), fun bs' t' hi => ?_⟩
    cases hi
    have hv := fieldsOf_packFields ⟨0x51, placeBytes bs, BitVec.ofNat 32 (4 * bs.length) + typeBits t⟩
    refine ⟨_, rfl, (congrArg Fields.op hv).trans hop.symm, (congrArg Fields.b hv).trans hb.symm, fun u hu => ?_⟩
    rw [← bytesOfA_fieldsOf]
    rcases List.mem_pair.1 hu with rfl | rfl
    · rw [hv, bytesOfA_placeBytes hlen]
    · exact ha

/-! ## Reserved words (R65) -/

theorem decodeFields_encDrive {f : Fields} (h : f.op.toNat = 0x17) : decodeFields f = .ok (.encDrive f.a f.b) := by
  simp only [decodeFields, h, formatD]

theorem decodeFields_txDrive {f : Fields} (h : f.op.toNat = 0x27) : decodeFields f = .ok (.txDrive f.a f.b) := by
  simp only [decodeFields, h, formatD]

/-- A word that is not reserved is an operation: its code is one of the map's, and its format takes its fields. -/
theorem decodeCommand_of_not_reserved {w : CommandWord} (h : ¬ reserved w) : ∃ i, decodeCommand w = .ok i := by
  have hzero (b : BitVec 32) : b = 0 ↔ b.toNat = 0 := by rw [← BitVec.toNat_inj]; rfl
  simp only [reserved, opNumber_eq, aNumber_eq, bNumber_eq, not_or] at h
  rw [decodeCommand]
  generalize fieldsOf w = f at h ⊢
  obtain ⟨hknown, hN, hK, hR, hE, hX⟩ := h
  by_cases hop : f.op.toNat ∈ codesN
  · obtain ⟨i, e⟩ := decodeFields_formatN hop
    have hfields := not_and.1 hN hop
    refine ⟨i, ?_⟩
    rw [e, formatN, if_pos]
    rw [hzero, hzero]
    omega
  by_cases hkey : f.op.toNat ∈ [0x30, 0x31]
  · obtain ⟨mk, e⟩ := decodeFields_formatK hkey
    have hfields := not_and.1 hK hkey
    refine ⟨mk (f.b.extractLsb' 0 4), ?_⟩
    rw [e, formatK, if_pos]
    rw [hzero, extractLsb'_top_eq_zero _ rfl]
    omega
  have hoperand : f.op.toNat ∈ codesOperand := by
    by_contra h
    exact hknown ⟨hop, h⟩
  simp only [codesOperand, List.mem_cons, List.not_mem_nil, or_false, not_or] at hoperand hkey
  obtain ⟨hpress, hrelease⟩ := hkey
  rcases hoperand with h | h | h | h | h | h | h
  · exact ⟨_, decodeFields_encDrive h⟩
  · exact ⟨_, decodeFields_txDrive h⟩
  · exact absurd h hpress
  · exact absurd h hrelease
  · refine ⟨.read (typeOf f.b), ?_⟩
    rw [decodeFields_formatR h, formatR, if_pos]
    rw [hzero, extractLsb'_top_eq_zero _ rfl]
    omega
  · refine ⟨.encint f.a (typeOf f.b), ?_⟩
    rw [decodeFields_formatE h, formatE, if_pos]
    rw [extractLsb'_top_eq_zero _ rfl]
    omega
  · have htop : f.b.extractLsb' 5 27 = 0 := by
      rw [extractLsb'_top_eq_zero _ rfl]
      omega
    have hcount : (f.b.extractLsb' 2 3).toNat ≤ 4 := by
      rw [BitVec.extractLsb'_toNat, Nat.shiftRight_eq_div_pow]
      omega
    exact ⟨_, by rw [decodeFields_formatX h, formatX, if_pos htop, if_pos hcount]⟩

theorem not_reserved_of_decodeCommand {w : CommandWord} {i : Instr} (h : decodeCommand w = .ok i) : ¬ reserved w := by
  intro hw
  obtain ⟨e, _, _, he⟩ := decodeCommand_reserved hw
  rw [h] at he
  cases he

/-- Settles O5: `reserved` says exactly which words decode to nothing, and a key event decodes at every symbol code. -/
theorem reservedWordsRaiseIllegalCommand : Obligations.ReservedWordsRaiseIllegalCommand := by
  refine ⟨fun w hw => ⟨fun i hi => not_reserved_of_decodeCommand hi hw, fun s t rest hs ht => ?_⟩,
    fun w => decodeCommand_of_not_reserved, fun sym => ⟨?_, ?_⟩⟩
  · rw [step_reserved hs ht hw, raise_eq]
    rfl
  · exact not_reserved_of_decodeCommand (decodeOfEncodeIsIdentity (.keyPress sym) rfl)
  · exact not_reserved_of_decodeCommand (decodeOfEncodeIsIdentity (.keyRelease sym) rfl)

/-! ## Wire frames handed over (log 7) -/

/-- A wire-frame row without fields stands for its frame, and is run by transmitting it. -/
theorem discreteWire_rows {p : Instr × Frame} (hp : p ∈ discreteWire) :
    isWire p.1 = true ∧ wireBytes p.1 = p.2 ∧ ∀ s, exec p.1 s = transmit p.2 s := by
  simp only [discreteWire, List.mem_cons, List.not_mem_nil, or_false] at hp
  rcases hp with rfl | rfl | rfl | rfl | rfl | rfl | rfl <;> exact ⟨rfl, rfl, fun _ => rfl⟩

/-- Settles O20: each row decodes from its bytes and is run by the transmission that the operations share. -/
theorem wireFramesTransmit : Obligations.WireFramesTransmit := by
  refine ⟨fun p hp => ?_, fun vr vl =>
    ⟨driveBytes cfg vr vl, ?_, decodeWhole_wireBytes (i := .wireDrive vr vl) rfl, transmitDrive_spec _⟩⟩
  · obtain ⟨hwire, hbytes, hexec⟩ := discreteWire_rows hp
    refine ⟨hbytes ▸ decodeWhole_wireBytes hwire, fun s => ?_⟩
    rw [hexec]
    exact transmit_spec p.2 s
  · have h := encodeDrive_ok cfg ⟨vr.le_toInt, Int.le_of_lt_add_one vr.toInt_lt⟩
      ⟨vl.le_toInt, Int.le_of_lt_add_one vl.toInt_lt⟩
    rwa [BitVec.ofInt_toInt, BitVec.ofInt_toInt] at h

/-! ## TX with every write healthy (R71) -/

/-- From `s`, the outcome puts on TX the frames it echoes and nothing else. -/
def WritesItsEchoes (s : State) (out : Result) : Prop :=
  ∀ s', out = .next s' → ∃ frames, s'.echoLog = s.echoLog ++ frames ∧ s'.txLog = s.txLog ++ frames.flatten

section

variable {s s1 : State}

section

variable (ht : s1.txLog = s.txLog) (he : s1.echoLog = s.echoLog)
include ht he

/-- A response over a state with the same histories. -/
theorem setResp_writesItsEchoes (r : Response) : WritesItsEchoes s (.next (s1.setResp r)) := by
  intro s' h
  cases h
  exact ⟨[], by simp [he], by simp [ht]⟩

theorem raise_writesItsEchoes (e : Status) : WritesItsEchoes s (raise e s1) := setResp_writesItsEchoes ht he _

theorem respondNone_writesItsEchoes : WritesItsEchoes s (respondNone s1) := setResp_writesItsEchoes ht he _

theorem respondFrame_writesItsEchoes (sent : Bool) (f : Frame) : WritesItsEchoes s (respondFrame sent f s1) :=
  setResp_writesItsEchoes ht he _

theorem respondValue_writesItsEchoes (t : IntType) (v : Int) : WritesItsEchoes s (respondValue t v s1) :=
  setResp_writesItsEchoes ht he _

end

theorem execRead_writesItsEchoes (t : IntType) (s : State) : WritesItsEchoes s (execRead t s) := by
  rcases execRead_cases t s with ⟨_, e⟩ | ⟨_, _, e⟩ |
    ⟨_, _, ⟨v, _, _, e⟩ | ⟨_, _, e⟩ | ⟨_, _, _, _, e⟩ | ⟨_, e⟩⟩ <;> rw [e]
  · exact raise_writesItsEchoes rfl rfl _
  · exact raise_writesItsEchoes rfl rfl _
  · exact respondValue_writesItsEchoes rfl rfl t v
  · exact raise_writesItsEchoes rfl rfl _
  · exact raise_writesItsEchoes rfl rfl _
  · intro s' h
    cases h

section

variable (htx : s.answers.tx = .ok)
include htx

theorem transmit_writesItsEchoes (f : Frame) : WritesItsEchoes s (transmit f s) := by
  intro s' h
  rcases transmit_cases f s with ⟨_, _, _, e⟩ | ⟨m, _, hm, e⟩ <;> rw [h] at e <;> cases e
  · exact ⟨[f], rfl, by simp⟩
  · exact ⟨[], by simp, by simp [hm htx]⟩

theorem transmitDrive_writesItsEchoes (f : Vector Byte 5) : WritesItsEchoes s (transmitDrive f s) := by
  intro s' h
  rcases transmitDrive_cases f s with ⟨_, _, _, e⟩ | ⟨m, _, hm, e⟩ <;> rw [h] at e <;> cases e
  · exact ⟨[f.toList], rfl, by simp⟩
  · exact ⟨[], by simp, by simp [hm htx]⟩

theorem driveUpdate_writesItsEchoes : WritesItsEchoes s (driveUpdate s) := by
  rcases driveUpdate_cases s with ⟨_, _, _, _, e⟩ | ⟨f, _, _, e⟩ <;> rw [e]
  · exact respondNone_writesItsEchoes rfl rfl
  · exact transmitDrive_writesItsEchoes htx f

/-- With a healthy write every instruction puts on TX the frames it echoes. -/
theorem exec_writesItsEchoes (i : Instr) : WritesItsEchoes s (exec i s) := by
  rcases exec_shapes i s with ⟨_, ⟨f, _, _, e⟩ | ⟨t, v, e⟩ | ⟨e, _⟩ | ⟨e, _⟩⟩ | ⟨_, _, _, _, e⟩ | ⟨_, _, e⟩ |
    ⟨k, e, _⟩ | ⟨f, _, _, e, _⟩ | ⟨_, d, v, _, _, _, e⟩ | ⟨t, _, e⟩ | ⟨_, e⟩ | ⟨_, e⟩ <;> rw [e]
  · exact respondFrame_writesItsEchoes rfl rfl false f
  · exact respondValue_writesItsEchoes rfl rfl t v
  · exact raise_writesItsEchoes rfl rfl _
  · exact raise_writesItsEchoes rfl rfl _
  · exact raise_writesItsEchoes rfl rfl _
  · exact respondNone_writesItsEchoes rfl rfl
  · exact transmit_writesItsEchoes htx (frameOf cfg k)
  · exact transmitDrive_writesItsEchoes htx f
  · exact driveUpdate_writesItsEchoes (s := s.setDi (setFlag s.di d v)) htx
  · exact execRead_writesItsEchoes t s
  · exact respondNone_writesItsEchoes rfl rfl
  · exact respondNone_writesItsEchoes rfl rfl

end

end

theorem WritesItsEchoes.txLog_eq_flatten {s s' : State} {out : Result} (hout : WritesItsEchoes s out)
    (h : out = .next s') (hs : s.txLog = s.echoLog.flatten) : s'.txLog = s'.echoLog.flatten := by
  obtain ⟨frames, hecho, hbytes⟩ := hout s' h
  rw [hecho, hbytes, hs, List.flatten_append]

/-- Settles O46: what an instruction adds to ECHOLOG it adds to TXLOG, a reserved word adds nothing, and reset empties
both. -/
theorem healthyTxCarriesExactlyTheEchoes : Obligations.HealthyTxCarriesExactlyTheEchoes := by
  intro s s' htx hlog h
  rcases step_cases s with ⟨_, e⟩ | ⟨t, rest, i, hs, _, e⟩ | ⟨t, rest, d, _, _, e⟩ <;> rw [e] at h
  · cases h
    exact hlog
  · exact (exec_writesItsEchoes (s := takeTurn t rest s) (htx t rest hs) i).txLog_eq_flatten h hlog
  · rcases undecoded_cases d (takeTurn t rest s) with ⟨_, _, u⟩ | ⟨_, u⟩ | ⟨_, u⟩ <;> rw [u] at h
    · exact (raise_writesItsEchoes (s := takeTurn t rest s) rfl rfl _).txLog_eq_flatten h hlog
    · cases h
    · cases h
      rfl

/-! ## Fixed words, status numbers and lines -/

/-- Settles O1, word by word. -/
theorem specExampleWordsDecode : Obligations.SpecExampleWordsDecode := by
  refine ⟨?_, ?_, ?_, ?_, ?_, ?_, ?_, ?_, ?_, ?_⟩ <;> decide

/-- Settles O42, status by status. -/
theorem statusCodes : Obligations.StatusCodes :=
  ⟨rfl, rfl, rfl, rfl, rfl, fun st => by cases st <;> decide⟩

/-- Settles O50, line by line. -/
theorem assemblyExamples : Obligations.AssemblyExamples := by
  refine ⟨?_, ?_, ?_, ?_, ?_, ?_, ?_⟩ <;> decide

end Sys2Proof.Machine

/-! SUPPORT. The Byte Codec (spec section 40): a byte sequence is its length and its big-endian number, `decodeInt` gives
the one value in range with that residue, and ENCINT and DECINT answer what the two functions give. -/

namespace Sys2Proof.Machine

open Sys2Proof.Safety

/-! ## Byte sequences as numbers -/

@[simp] theorem frameNumber_nil : frameNumber [] = 0 := rfl

@[simp] theorem frameNumber_append_singleton (bs : Frame) (b : Byte) :
    frameNumber (bs ++ [b]) = frameNumber bs * 256 + b.toNat := by
  rw [frameNumber, List.foldl_append]
  rfl

theorem frameNumber_lt (bs : Frame) : frameNumber bs < 256 ^ bs.length := by
  induction bs using List.reverseRecOn with
  | nil => simp
  | append_singleton bs b ih =>
    have := b.isLt
    rw [frameNumber_append_singleton, List.length_append, List.length_singleton, Nat.pow_succ]
    omega

/-- Byte sequences of one length are told apart by their numbers. -/
theorem frameNumber_inj {bs cs : Frame} (hlen : bs.length = cs.length) (h : frameNumber bs = frameNumber cs) :
    bs = cs := by
  induction bs using List.reverseRecOn generalizing cs with
  | nil => exact (List.length_eq_zero_iff.1 hlen.symm).symm
  | append_singleton bs b ih =>
    cases cs using List.reverseRecOn with
    | nil => simp at hlen
    | append_singleton cs c =>
      have := b.isLt
      have := c.isLt
      rw [frameNumber_append_singleton, frameNumber_append_singleton] at h
      have hb : b = c := BitVec.eq_of_toNat_eq (by omega)
      rw [ih (by simpa using hlen) (by omega), hb]

/-! ## Values and codes -/

/-- The value of a code is the one number in `rangeOf(w, s)` whose residue modulo `2^(8w)` is the code (R81, R82). -/
theorem codeValue_eq_iff {t : IntType} {u : Nat} (h : u < 256 ^ widthBytes t.w) (v : Int) :
    codeValue t u = v ↔ (rangeLo t ≤ v ∧ v ≤ rangeHi t) ∧ (u : Int) = v % 256 ^ widthBytes t.w := by
  obtain ⟨w, s⟩ := t
  cases w <;> cases s <;> simp only [widthBytes, codeValue, rangeLo, rangeHi, widthModulus] at h ⊢ <;> omega

/-- Two's complement, in the terms of the width (R82). -/
theorem codeValue_eq_ite (t : IntType) (u : Nat) :
    codeValue t u = if t.s = .signed ∧ 2 ^ (8 * widthBytes t.w - 1) ≤ u
      then (u : Int) - 2 ^ (8 * widthBytes t.w) else (u : Int) := by
  obtain ⟨w, s⟩ := t
  cases s with
  | unsigned => simp [codeValue]
  | signed =>
    cases w <;> simp only [codeValue, widthModulus, widthBytes, true_and] <;> omega

theorem encodeInt_inRange {t : IntType} {v : Int} (h : rangeLo t ≤ v ∧ v ≤ rangeHi t) :
    ∃ bs, encodeInt t v = .ok bs ∧ bs.length = widthBytes t.w ∧ (frameNumber bs : Int) = v % 256 ^ widthBytes t.w := by
  obtain ⟨w, s⟩ := t
  cases w with
  | one =>
    refine ⟨_, encodeInt_one h, rfl, ?_⟩
    simp only [frameNumber, widthBytes, List.foldl_cons, List.foldl_nil, BitVec.toNat_ofInt]
    omega
  | two =>
    refine ⟨_, encodeInt_two h, rfl, ?_⟩
    have hnum : frameNumber (bigEndian (BitVec.ofInt 16 v)) = (BitVec.ofInt 16 v).toNat := by
      simp only [bigEndian, frameNumber, List.foldl_cons, List.foldl_nil, toNat_high, toNat_low]
      omega
    rw [hnum, BitVec.toNat_ofInt, widthBytes]
    omega

theorem decodeInt_of_length {t : IntType} {bs : List Byte} (h : bs.length = widthBytes t.w) :
    decodeInt t bs = .ok (codeValue t (frameNumber bs)) := by
  rcases decodeInt_cases t bs with ⟨_, e⟩ | ⟨hne, _⟩
  · exact e
  · exact absurd h hne

theorem decodeInt_of_length_ne {t : IntType} {bs : List Byte} (h : bs.length ≠ widthBytes t.w) :
    decodeInt t bs = .error .formatError := by
  rcases decodeInt_cases t bs with ⟨heq, _⟩ | ⟨_, e⟩
  · exact absurd heq h
  · exact e

theorem frameNumber_lt_width {t : IntType} {bs : List Byte} (h : bs.length = widthBytes t.w) :
    frameNumber bs < 256 ^ widthBytes t.w := h ▸ frameNumber_lt bs

/-- Settles O9: the bytes of a value in range, and RangeError for any other. -/
theorem encodeIntMeaning : Obligations.EncodeIntMeaning :=
  ⟨⟨rfl, rfl, rfl, rfl, rfl, rfl, rfl, rfl⟩, fun _ _ => ⟨encodeInt_inRange, encodeInt_outOfRange⟩⟩

/-- Settles O10: the value of the bytes' number, which is in range. -/
theorem decodeIntMeaning : Obligations.DecodeIntMeaning := by
  refine fun t bs => ⟨decodeInt_of_length_ne, fun h => ?_⟩
  obtain ⟨⟨hlo, hhi⟩, _⟩ := (codeValue_eq_iff (frameNumber_lt_width h) _).1 rfl
  exact ⟨_, decodeInt_of_length h, hlo, hhi, codeValue_eq_ite t _⟩

/-- Settles O11: the bytes of a value have its residue as their number, so decoding finds the value again; and the bytes
of a decoded value have the number of the bytes it came from, so they are those. -/
theorem codecRoundTrip : Obligations.CodecRoundTrip := by
  refine ⟨fun t v hlo hhi => ?_, fun t bs hlen => ?_⟩
  · obtain ⟨bs, henc, hlen, hnum⟩ := encodeInt_inRange ⟨hlo, hhi⟩
    have hval : codeValue t (frameNumber bs) = v :=
      (codeValue_eq_iff (frameNumber_lt_width hlen) v).2 ⟨⟨hlo, hhi⟩, hnum⟩
    exact ⟨bs, henc, hval ▸ decodeInt_of_length hlen⟩
  · obtain ⟨hrange, hnum⟩ := (codeValue_eq_iff (frameNumber_lt_width hlen) _).1 rfl
    obtain ⟨cs, henc, hlen', hnum'⟩ := encodeInt_inRange hrange
    have hcs : cs = bs := frameNumber_inj (hlen'.trans hlen.symm) (Int.ofNat_inj.1 (hnum'.trans hnum.symm))
    exact ⟨_, decodeInt_of_length hlen, hcs ▸ henc⟩

/-! ## ENCINT and DECINT -/

theorem padFrame_one (b0 : Byte) : padFrame [b0] = #v[b0, 0, 0, 0, 0, 0, 0] := rfl

theorem padFrame_two (b0 b1 : Byte) : padFrame [b0, b1] = #v[b0, b1, 0, 0, 0, 0, 0] := rfl

theorem exec_encint_of_ok {value : BitVec 32} {t : IntType} {f : Frame} (h : encodeInt t value.toInt = .ok f)
    (s : State) : exec (.encint value t) s = respondFrame false f s := by
  simp only [exec, execEncint, operandValue, h, answerBytes]

theorem exec_encint_of_error {value : BitVec 32} {t : IntType} {e : Status} (h : encodeInt t value.toInt = .error e)
    (s : State) : exec (.encint value t) s = raise e s := by
  simp only [exec, execEncint, operandValue, h, answerBytes]

theorem exec_decint_of_ok {bs : List Byte} {t : IntType} {v : Int} (h : decodeInt t bs = .ok v) (s : State) :
    exec (.decint bs t) s = respondValue t v s := by
  simp only [exec, execDecint, h]

theorem exec_decint_of_error {bs : List Byte} {t : IntType} {e : Status} (h : decodeInt t bs = .error e) (s : State) :
    exec (.decint bs t) s = raise e s := by
  simp only [exec, execDecint, h]

/-- Settles O12: an operand in range has bytes, one or two by the width, and they are answered; any other has none. -/
theorem encintMeaning : Obligations.EncintMeaning := by
  refine ⟨fun value t => decodeOfEncodeIsIdentity (.encint value t) rfl,
    fun value t s => ⟨fun hrange => ?_, fun hrange => ?_⟩⟩
  · obtain ⟨bs, henc, hlen, hnum⟩ := encodeInt_inRange hrange
    refine ⟨fun hw => ?_, fun hw => ?_⟩ <;> rw [hw] at hlen hnum
    · obtain ⟨b0, rfl⟩ := List.length_eq_one_iff.1 hlen
      refine ⟨b0, by simpa [frameNumber, widthBytes] using hnum, ?_⟩
      rw [exec_encint_of_ok henc, respondFrame_eq, padFrame_one]
      rfl
    · obtain ⟨b0, b1, rfl⟩ := List.length_eq_two.1 hlen
      refine ⟨b0, b1, by simpa [frameNumber, widthBytes] using hnum, ?_⟩
      rw [exec_encint_of_ok henc, respondFrame_eq, padFrame_two]
      rfl
  · rw [exec_encint_of_error (encodeInt_outOfRange hrange), raise_eq]

/-- A count of 5, 6 or 7 makes a word of DECINT reserved (R61, R65). -/
theorem reserved_decint_count {n : Nat} (hlo : 4 < n) (hhi : n ≤ 7) (a : BitVec 32) (t : IntType) :
    reserved (packFields ⟨0x51, a, BitVec.ofNat 32 (4 * n) + typeBits t⟩) := by
  have := toNat_typeBits_lt t
  refine .inr (.inr (.inr (.inr (.inr ⟨?_, .inr ?_⟩))))
  · rw [opNumber_eq, fieldsOf_packFields]
    rfl
  · rw [bNumber_eq, fieldsOf_packFields, toNat_countBits (by omega)]
    omega

/-- A word that is reserved is answered with IllegalCommand in every state (R65, R184). -/
theorem undecoded_of_reserved {w : CommandWord} (h : reserved w) :
    ∃ e, decodeCommand w = .error e ∧ ∀ s, undecoded e s = raise .illegalCommand s := by
  obtain ⟨e, hframe, hreset, he⟩ := decodeCommand_reserved h
  refine ⟨e, he, fun s => ?_⟩
  rcases undecoded_cases e s with ⟨_, _, u⟩ | ⟨h, _⟩ | ⟨h, _⟩
  · exact u
  · exact absurd h hframe
  · exact absurd h hreset

/-- Settles O13: the word by its count, and the answer by `decodeInt`; a failure keeps the handle. -/
theorem decintMeaning : Obligations.DecintMeaning := by
  refine ⟨fun a n t hn => (decode_packFields _).trans (formatX_count _ a hn t), fun a n t hlo hhi => ?_,
    fun bs t s => ⟨fun hlen => ?_, fun hlen => ?_⟩⟩
  · obtain ⟨e, he, hu⟩ := undecoded_of_reserved (reserved_decint_count hlo hhi a t)
    exact ⟨e, he, fun s => by rw [hu, raise_eq]⟩
  · refine ⟨_, decodeInt_of_length hlen, ?_⟩
    rw [exec_decint_of_ok (decodeInt_of_length hlen), respondValue_eq]
  · rw [exec_decint_of_error (decodeInt_of_length_ne hlen), raise_eq]

end Sys2Proof.Machine

/-! SUPPORT. The Command Encoder (spec section 41): a Drive frame holds its two speeds and nothing else, ENC.* answer a
frame without looking at the state, and TX.* transmit it. -/

namespace Sys2Proof.Machine

open Sys2Proof.Safety

/-! ## The Drive frame (R52, R101) -/

/-- The Drive frame as one number: the opcode and the two 16-bit codes, right wheel first. -/
theorem frameNumber_driveBytes (c : Cfg) (vr vl : BitVec 16) :
    frameNumber (driveBytes c vr vl).toList = c.opDrive.toNat * 2 ^ 32 + vr.toNat * 2 ^ 16 + vl.toNat := by
  simp only [driveBytes, Vector.toList_mk, frameNumber, List.foldl_cons, List.foldl_nil, toNat_high, toNat_low]
  omega

theorem driveSpeeds_driveBytes (c : Cfg) (vr vl : BitVec 16) :
    driveSpeeds (driveBytes c vr vl) = (vr.toInt, vl.toInt) :=
  congrArg₂ (fun r l : BitVec 16 => (r.toInt, l.toInt)) (high_append_low vr) (high_append_low vl)

theorem driveSpeeds_driveBytes_ofInt {vr vl : Int} (c : Cfg) (h : speedsInRange vr vl) :
    driveSpeeds (driveBytes c (BitVec.ofInt 16 vr) (BitVec.ofInt 16 vl)) = (vr, vl) := by
  obtain ⟨⟨hrlo, hrhi⟩, hllo, hlhi⟩ := h
  rw [driveSpeeds_driveBytes, BitVec.toInt_ofInt_eq_self (by decide) hrlo (by omega),
    BitVec.toInt_ofInt_eq_self (by decide) hllo (by omega)]

theorem encodeDrive_of_speedsInRange {vr vl : Int} (c : Cfg) (h : speedsInRange vr vl) :
    encodeDrive c vr vl = .ok (driveBytes c (BitVec.ofInt 16 vr) (BitVec.ofInt 16 vl)) :=
  encodeDrive_ok c h.left h.right

theorem encodeDrive_of_not_speedsInRange {vr vl : Int} (c : Cfg) (h : ¬ speedsInRange vr vl) :
    encodeDrive c vr vl = .error .rangeError :=
  encodeDrive_outOfRange c fun h' => h (and_assoc.2 h')

/-- The speeds are read back from the frame, so it is the frame of no other speeds. -/
theorem encodeDrive_inj {vr vl vr' vl' : Int} {c : Cfg} (h : speedsInRange vr vl) (h' : speedsInRange vr' vl')
    (heq : encodeDrive c vr vl = encodeDrive c vr' vl') : vr = vr' ∧ vl = vl' := by
  rw [encodeDrive_of_speedsInRange c h, encodeDrive_of_speedsInRange c h'] at heq
  have hspeeds := congrArg driveSpeeds (Except.ok.inj heq)
  rwa [driveSpeeds_driveBytes_ofInt c h, driveSpeeds_driveBytes_ofInt c h', Prod.mk.injEq] at hspeeds

/-- Settles O16: the number of the frame of two codes, at the codes of the speeds, from which the speeds are read back. -/
theorem encodeDriveMeaning : Obligations.EncodeDriveMeaning := by
  refine ⟨fun vr vl h => ⟨_, encodeDrive_of_speedsInRange cfg h, rfl, ?_, driveSpeeds_driveBytes_ofInt cfg h⟩,
    fun vr vl => encodeDrive_of_not_speedsInRange cfg, fun _ _ _ _ => encodeDrive_inj⟩
  have hop : cfg.opDrive.toNat = 145 := rfl
  rw [frameNumber_driveBytes, hop, BitVec.toNat_ofInt, BitVec.toNat_ofInt]
  omega

/-! ## ENC.DRIVE and TX.DRIVE (R110, R118) -/

theorem padFrame_toList (f : Vector Byte 5) : padFrame f.toList = #v[f[0], f[1], f[2], f[3], f[4], 0, 0] := by
  rw [vector5_toList, padFrame_drive]

section

variable {vr vl : BitVec 32}

theorem exec_encDrive_of_ok {f : Vector Byte 5} (h : encodeDrive cfg vr.toInt vl.toInt = .ok f) (s : State) :
    exec (.encDrive vr vl) s = respondFrame false f.toList s := by
  simp only [exec, execEncDrive, encodeOperands, operandValue, h, answerBytes]

theorem exec_encDrive_of_error {e : Status} (h : encodeDrive cfg vr.toInt vl.toInt = .error e) (s : State) :
    exec (.encDrive vr vl) s = raise e s := by
  simp only [exec, execEncDrive, encodeOperands, operandValue, h, answerBytes]

theorem exec_txDrive_of_ok {f : Vector Byte 5} (h : encodeDrive cfg vr.toInt vl.toInt = .ok f) (s : State) :
    exec (.txDrive vr vl) s = transmitDrive f s := by
  simp only [exec, execTxDrive, encodeOperands, operandValue, h]

theorem exec_txDrive_of_error {e : Status} (h : encodeDrive cfg vr.toInt vl.toInt = .error e) (s : State) :
    exec (.txDrive vr vl) s = raise e s := by
  simp only [exec, execTxDrive, encodeOperands, operandValue, h]

end

/-- Settles O17: the frame of speeds in range is answered, and RangeError raised for any other. -/
theorem encDriveMeaning : Obligations.EncDriveMeaning := by
  refine fun vr vl => ⟨decodeOfEncodeIsIdentity (.encDrive vr vl) rfl, fun h => ?_, fun h s => ?_⟩
  · have henc := encodeDrive_of_speedsInRange cfg h
    refine ⟨_, henc, fun s => ?_⟩
    rw [exec_encDrive_of_ok henc, respondFrame_eq, padFrame_toList, Vector.length_toList]
    rfl
  · rw [exec_encDrive_of_error (encodeDrive_of_not_speedsInRange cfg h), raise_eq]

/-- Settles O19: the encode comes first, and what it gives is transmitted as every Drive frame is. -/
theorem txDriveMeaning : Obligations.TxDriveMeaning := by
  refine fun vr vl => ⟨decodeOfEncodeIsIdentity (.txDrive vr vl) rfl, fun h => ?_, fun h s => ?_⟩
  · have henc := encodeDrive_of_speedsInRange cfg h
    exact ⟨_, henc, fun s => exec_txDrive_of_ok henc s ▸ transmitDrive_spec _ s⟩
  · rw [exec_txDrive_of_error (encodeDrive_of_not_speedsInRange cfg h), raise_eq]

/-! ## The discrete operations (R100, R103 to R109, R111 to R117) -/

/-- Settles O14, kind by kind. -/
theorem frameOfTable : Obligations.FrameOfTable := ⟨fun _ => rfl, rfl⟩

/-- Each row's word is decoded to its operation, and its response carries its frame. -/
theorem discreteRows_consistent : ∀ p ∈ discreteEnc ++ discreteTx,
    decodeCommand p.word = .ok p.instr ∧ p.flen = BitVec.ofNat 3 p.frame.length ∧ p.fbytes = padFrame p.frame := by
  decide

theorem exec_discreteEnc {p : DiscreteRow} (hp : p ∈ discreteEnc) (s : State) :
    exec p.instr s = respondFrame false p.frame s := by
  simp only [discreteEnc, List.mem_cons, List.not_mem_nil, or_false] at hp
  rcases hp with rfl | rfl | rfl | rfl | rfl | rfl | rfl <;> rfl

theorem exec_discreteTx {p : DiscreteRow} (hp : p ∈ discreteTx) (s : State) : exec p.instr s = transmit p.frame s := by
  simp only [discreteTx, List.mem_cons, List.not_mem_nil, or_false] at hp
  rcases hp with rfl | rfl | rfl | rfl | rfl | rfl | rfl <;> rfl

/-- Settles O15: each row answers its frame. -/
theorem encDiscreteMeaning : Obligations.EncDiscreteMeaning := by
  intro p hp
  obtain ⟨hword, hlen, hbytes⟩ := discreteRows_consistent p (List.mem_append_left _ hp)
  refine ⟨hword, fun s => ?_⟩
  rw [exec_discreteEnc hp, hlen, hbytes, respondFrame_eq]

/-- Settles O18: each row is the transmission of its frame. -/
theorem txDiscreteMeaning : Obligations.TxDiscreteMeaning := by
  intro p hp
  obtain ⟨hword, hlen, hbytes⟩ := discreteRows_consistent p (List.mem_append_right _ hp)
  refine ⟨hword, fun s => ?_⟩
  rw [exec_discreteTx hp, hlen, hbytes]
  exact transmit_spec p.frame s

/-! ## Operations that look at no state (R102) -/

/-- `op` changes nothing but the response, which is one and the same in every state but for `di` and `hv`. -/
def AnswersAlike (op : State → Result) : Prop :=
  ∃ r : Response, ∀ s : State, op s = .next { s with resp := some { r with di := intentBits s.di, hv := s.h } }

theorem raise_answersAlike (e : Status) : AnswersAlike (raise e) :=
  ⟨responseBlank e 0 false, raise_eq e⟩

theorem respondFrame_answersAlike (sent : Bool) (f : Frame) : AnswersAlike (respondFrame sent f) :=
  ⟨responseFrame sent (BitVec.ofNat 3 f.length) (padFrame f) 0 false, respondFrame_eq sent f⟩

theorem respondValue_answersAlike (t : IntType) (v : Int) : AnswersAlike (respondValue t v) :=
  ⟨responseValue (BitVec.ofInt 32 v) (decide (t.w = .two)) (decide (t.s = .signed)) 0 false, respondValue_eq t v⟩

theorem exec_encDrive_answersAlike (vr vl : BitVec 32) : AnswersAlike (exec (.encDrive vr vl)) := by
  cases h : encodeDrive cfg vr.toInt vl.toInt with
  | ok f => exact funext (exec_encDrive_of_ok h) ▸ respondFrame_answersAlike false f.toList
  | error e => exact funext (exec_encDrive_of_error h) ▸ raise_answersAlike e

theorem exec_encint_answersAlike (value : BitVec 32) (t : IntType) : AnswersAlike (exec (.encint value t)) := by
  cases h : encodeInt t value.toInt with
  | ok f => exact funext (exec_encint_of_ok h) ▸ respondFrame_answersAlike false f
  | error e => exact funext (exec_encint_of_error h) ▸ raise_answersAlike e

theorem exec_decint_answersAlike (bs : List Byte) (t : IntType) : AnswersAlike (exec (.decint bs t)) := by
  cases h : decodeInt t bs with
  | ok v => exact funext (exec_decint_of_ok h) ▸ respondValue_answersAlike t v
  | error e => exact funext (exec_decint_of_error h) ▸ raise_answersAlike e

theorem exec_answersAlike {i : Instr} (hi : isPure i = true) : AnswersAlike (exec i) := by
  cases i with
  | encPassive | encSafe | encFull | encClean | encDock | encReset | encBeep =>
    exact respondFrame_answersAlike false (frameOf cfg _)
  | encDrive vr vl => exact exec_encDrive_answersAlike vr vl
  | encint value t => exact exec_encint_answersAlike value t
  | decint bs t => exact exec_decint_answersAlike bs t
  | _ => cases hi

/-- Settles O44: the response is fixed before any state is given. -/
theorem pureOperationsDependOnOperandsAlone : Obligations.PureOperationsDependOnOperandsAlone := by
  intro i s1 s2 hi
  obtain ⟨r, hr⟩ := exec_answersAlike hi
  exact ⟨r, hr s1, hr s2⟩

end Sys2Proof.Machine

/-! SUPPORT. The Sensor Decoder (spec section 42): what READ does by the handle and by the answer of the transport, and
that what was written to TX or echoed has no part in it. -/

namespace Sys2Proof.Machine

open Sys2Proof.Safety

/-! ## READ by the handle and the answer (R130, R205) -/

section

variable {s : State}

theorem exec_read_of_invalid (h : s.h = false) (t : IntType) : exec (.read t) s = raise .connectionLost s := by
  simp [exec, execRead, h]

theorem exec_read_of_closed (h : s.h = true) (ho : s.answers.isOpen = false) (t : IntType) :
    exec (.read t) s = raise .connectionLost (s.setHandle false) := by
  simp [exec, execRead, isOpen, h, ho]

variable {t : IntType} (h : s.h = true) (ho : s.answers.isOpen = true)
include h ho

/-- With as many bytes there as the width asks for, they have a value (R82). -/
theorem exec_read_of_serve (ha : s.answers.rx = .serve) (hn : widthBytes t.w ≤ s.rx.length) :
    exec (.read t) s = respondValue t (codeValue t (frameNumber (s.rx.take (widthBytes t.w))))
      (s.setRx (s.rx.drop (widthBytes t.w))) := by
  have hd := decodeInt_of_length (t := t) (List.length_take_of_le hn)
  simp [exec, execRead, isOpen, rxReadExact, h, ho, ha, hn, hd]

/-- Fewer bytes than the width asks for: a short read of what is there (R35). -/
theorem exec_read_of_tooFew (ha : s.answers.rx = .serve) (hn : s.rx.length < widthBytes t.w) :
    exec (.read t) s = raise .formatError ((s.setRx []).setHandle false) := by
  simp [exec, execRead, isOpen, rxReadExact, h, ho, ha, Nat.not_le.2 hn]

theorem exec_read_of_short {k : Nat} (ha : s.answers.rx = .short k) :
    exec (.read t) s = raise .formatError ((s.setRx (s.rx.drop (min k (widthBytes t.w - 1)))).setHandle false) := by
  simp [exec, execRead, isOpen, rxReadExact, h, ho, ha]

theorem exec_read_of_fault {k : Nat} (ha : s.answers.rx = .fault k) :
    exec (.read t) s = raise .connectionLost ((s.setRx (s.rx.drop k)).setHandle false) := by
  simp [exec, execRead, isOpen, rxReadExact, h, ho, ha]

theorem exec_read_of_never (ha : s.answers.rx = .never) : exec (.read t) s = .fault .readBlocked := by
  simp [exec, execRead, isOpen, rxReadExact, h, ho, ha]

/-- A value read is in the range of its type (R82), and the response carries it. -/
theorem exec_read_value (ha : s.answers.rx = .serve) (hn : widthBytes t.w ≤ s.rx.length) :
    ∃ v : Int, rangeLo t ≤ v ∧ v ≤ rangeHi t ∧ decodeInt t (s.rx.take (widthBytes t.w)) = .ok v ∧
      exec (.read t) s = .next { s with
        rx := s.rx.drop (widthBytes t.w),
        resp := some (responseValue (BitVec.ofInt 32 v) (decide (t.w = .two)) (decide (t.s = .signed))
          (intentBits s.di) true) } := by
  have hlen : (s.rx.take (widthBytes t.w)).length = widthBytes t.w := List.length_take_of_le hn
  obtain ⟨⟨hlo, hhi⟩, _⟩ := (codeValue_eq_iff (frameNumber_lt_width hlen) _).1 rfl
  refine ⟨_, hlo, hhi, decodeInt_of_length hlen, ?_⟩
  rw [exec_read_of_serve h ho ha hn, respondValue_eq, State.setRx_h, h]
  rfl

end

/-- The four words of READ, one for each type (R130). -/
theorem readWords_decode :
    decodeCommand 0x40_00000000_00000000 = .ok (.read ⟨.one, .unsigned⟩) ∧
      decodeCommand 0x40_00000000_00000001 = .ok (.read ⟨.two, .unsigned⟩) ∧
      decodeCommand 0x40_00000000_00000002 = .ok (.read ⟨.one, .signed⟩) ∧
      decodeCommand 0x40_00000000_00000003 = .ok (.read ⟨.two, .signed⟩) := by
  refine ⟨?_, ?_, ?_, ?_⟩ <;> decide

/-- Settles O24: every failure raises its status over what is left of RX, with the handle invalid. -/
theorem readMeaning : Obligations.ReadMeaning := by
  refine ⟨readWords_decode, fun t s => ⟨fun h => ?_, fun h ho => ?_, fun h ho =>
    ⟨exec_read_value h ho, fun ha hn => ?_, fun k ha => ?_, fun k ha => ?_, exec_read_of_never h ho⟩⟩⟩
  · rw [exec_read_of_invalid h, raise_eq, h]
  · exact (exec_read_of_closed h ho t).trans (raise_eq _ _)
  · exact (exec_read_of_tooFew h ho ha hn).trans (raise_eq _ _)
  · exact (exec_read_of_short h ho ha).trans (raise_eq _ _)
  · exact (exec_read_of_fault h ho ha).trans (raise_eq _ _)

/-! ## TX and ECHO have no part in READ (R133) -/

/-- The state with other histories of TX and ECHO. -/
def State.withLogs (s : State) (tx : List Byte) (echo : List Frame) : State := { s with txLog := tx, echoLog := echo }

/-- Settles O26: the handle, the answers and RX choose one way for READ to end, the same whatever the histories hold,
and none of the ways writes them. -/
theorem readIgnoresTx : Obligations.ReadIgnoresTx := by
  intro t s tx echo
  change exec (.read t) (s.withLogs tx echo) = mapNext (fun s' => s'.withLogs tx echo) (exec (.read t) s)
  cases h : s.h with
  | false =>
    rw [exec_read_of_invalid h, exec_read_of_invalid (s := s.withLogs tx echo) h]
    rfl
  | true =>
    cases ho : s.answers.isOpen with
    | false =>
      rw [exec_read_of_closed h ho, exec_read_of_closed (s := s.withLogs tx echo) h ho]
      rfl
    | true =>
      cases ha : s.answers.rx with
      | serve =>
        rcases Nat.lt_or_ge s.rx.length (widthBytes t.w) with hn | hn
        · rw [exec_read_of_tooFew h ho ha hn, exec_read_of_tooFew (s := s.withLogs tx echo) h ho ha hn]
          rfl
        · rw [exec_read_of_serve h ho ha hn, exec_read_of_serve (s := s.withLogs tx echo) h ho ha hn]
          rfl
      | short k =>
        rw [exec_read_of_short h ho ha, exec_read_of_short (s := s.withLogs tx echo) h ho ha]
        rfl
      | fault k =>
        rw [exec_read_of_fault h ho ha, exec_read_of_fault (s := s.withLogs tx echo) h ho ha]
        rfl
      | never =>
        rw [exec_read_of_never h ho ha, exec_read_of_never (s := s.withLogs tx echo) h ho ha]
        rfl

end Sys2Proof.Machine

/-! SUPPORT. The Drive Intent Tracker (spec section 43): the speeds and the frame of the flags, the drive update, and
what each key does. -/

namespace Sys2Proof.Machine

open Sys2Proof.Safety

/-! ## The drive vector and the wheel speeds (R140, R141) -/

/-- Opposite contributions of a pair of flags cancel. -/
theorem opposite_flags_cancel (p n : Bool) (x : Int) :
    (if p then x else 0) + (if n then -x else 0) = if p = n then 0 else if p then x else -x := by
  cases p <;> cases n <;> simp

theorem opposite_flags_bounds (p n : Bool) (x : Nat) :
    -(x : Int) ≤ (if p then (x : Int) else 0) + (if n then -(x : Int) else 0) ∧
    (if p then (x : Int) else 0) + (if n then -(x : Int) else 0) ≤ x := by
  rw [opposite_flags_cancel]
  split
  · omega
  · split <;> omega

/-- Either flag of a pair, changed alone, moves the sum of the two contributions. -/
theorem opposite_flags_flip_ne (p n : Bool) {x : Nat} (hx : 0 < x) :
    (if !p then (x : Int) else 0) + (if n then -(x : Int) else 0) ≠
      (if p then (x : Int) else 0) + (if n then -(x : Int) else 0) ∧
    (if p then (x : Int) else 0) + (if !n then -(x : Int) else 0) ≠
      (if p then (x : Int) else 0) + (if n then -(x : Int) else 0) := by
  refine ⟨?_, ?_⟩
  · cases p <;> simp <;> omega
  · cases n <;> simp <;> omega

theorem driveVelocity_eq (c : Cfg) (di : DriveIntent) :
    driveVelocity c di = if di.f = di.b then 0 else if di.f then (c.cv : Int) else -(c.cv : Int) :=
  opposite_flags_cancel di.f di.b c.cv

theorem driveRotation_eq (c : Cfg) (di : DriveIntent) :
    driveRotation c di = if di.l = di.r then 0 else if di.l then (c.cr : Int) else -(c.cr : Int) :=
  opposite_flags_cancel di.l di.r c.cr

theorem driveVelocity_bounds (c : Cfg) (di : DriveIntent) :
    -(c.cv : Int) ≤ driveVelocity c di ∧ driveVelocity c di ≤ c.cv :=
  opposite_flags_bounds di.f di.b c.cv

theorem driveRotation_bounds (c : Cfg) (di : DriveIntent) :
    -(c.cr : Int) ≤ driveRotation c di ∧ driveRotation c di ≤ c.cr :=
  opposite_flags_bounds di.l di.r c.cr

/-- The rotation is even because `CR` is (R3). -/
theorem driveRotation_even (c : Cfg) (di : DriveIntent) : driveRotation c di % 2 = 0 := by
  have heven := c.cr_even
  rw [driveRotation_eq]
  split
  · rfl
  · split <;> omega

theorem clamp16_of_lt {x : Int} (h : x < -32768) : clamp16 x = -32768 := if_pos h

theorem clamp16_of_gt {x : Int} (h : 32767 < x) : clamp16 x = 32767 := by
  rw [clamp16, if_neg (by omega), if_pos h]

theorem clamp16_of_inRange {x : Int} (hlo : -32768 ≤ x) (hhi : x ≤ 32767) : clamp16 x = x := by
  rw [clamp16, if_neg (by omega), if_neg (by omega)]

/-- Settles O29: the two cases of each pair of flags, and the three of the clamp. -/
theorem driveVectorAndWheelSpeeds : Obligations.DriveVectorAndWheelSpeeds := by
  refine ⟨fun c di => ⟨driveVelocity_eq c di, driveRotation_eq c di, driveRotation_even c di⟩,
    fun x => ⟨clamp16_of_lt, clamp16_of_gt, clamp16_of_inRange⟩, ?_, by decide⟩
  rintro v _ half rfl
  rw [wheelSpeeds, Int.mul_ediv_cancel_left half (by decide)]

/-! ## The drive frame (R142, R148) -/

/-- The clamp keeps both wheels in the range of the Drive frame. -/
theorem wheelSpeeds_inRange (v r : Int) : speedsInRange (wheelSpeeds v r).1 (wheelSpeeds v r).2 :=
  ⟨clamp16_inRange _, clamp16_inRange _⟩

/-- Settles O30: the clamped speeds are in range, and the table is evaluated on its rows. -/
theorem driveFrameMeaning : Obligations.DriveFrameMeaning := by
  refine ⟨fun c di => ?_, by decide⟩
  exact ⟨_, _, _, rfl, wheelSpeeds_inRange _ _, encodeDrive_of_speedsInRange c (wheelSpeeds_inRange _ _),
    driveFrame_bytes c di⟩

/-- The wheel speeds of the flags where the magnitudes cannot reach the clamp. -/
theorem wheelSpeeds_of_unclamped {c : Cfg} (h : c.cv + c.cr / 2 ≤ 32767) (di : DriveIntent) :
    wheelSpeeds (driveVelocity c di) (driveRotation c di) =
      (driveVelocity c di + driveRotation c di / 2, driveVelocity c di - driveRotation c di / 2) := by
  have heven := c.cr_even
  obtain ⟨hvlo, hvhi⟩ := driveVelocity_bounds c di
  obtain ⟨hrlo, hrhi⟩ := driveRotation_bounds c di
  rw [wheelSpeeds, clamp16_of_inRange (by omega) (by omega), clamp16_of_inRange (by omega) (by omega)]

/-- Without clamping the drive vector can be recovered from the frame: half the sum and the difference of the wheels. -/
theorem driveVector_eq_of_driveFrame_eq {c : Cfg} {di di' : DriveIntent} (h : c.cv + c.cr / 2 ≤ 32767)
    (heq : driveFrame c di = driveFrame c di') :
    driveVelocity c di = driveVelocity c di' ∧ driveRotation c di = driveRotation c di' := by
  obtain ⟨hright, hleft⟩ := encodeDrive_inj (wheelSpeeds_inRange _ _) (wheelSpeeds_inRange _ _) heq
  rw [wheelSpeeds_of_unclamped h, wheelSpeeds_of_unclamped h] at hright hleft
  have heven := driveRotation_even c di
  have heven' := driveRotation_even c di'
  omega

/-- A forward or backward flag moves the velocity, a left or right flag the rotation. -/
theorem driveVector_flip_ne {c : Cfg} (hv : 0 < c.cv) (hr : 0 < c.cr) (di : DriveIntent) (d : Direction) :
    driveVelocity c (setFlag di d (!getFlag di d)) ≠ driveVelocity c di ∨
    driveRotation c (setFlag di d (!getFlag di d)) ≠ driveRotation c di := by
  cases d with
  | forward => exact .inl (opposite_flags_flip_ne di.f di.b hv).left
  | backward => exact .inl (opposite_flags_flip_ne di.f di.b hv).right
  | left => exact .inr (opposite_flags_flip_ne di.l di.r hr).left
  | right => exact .inr (opposite_flags_flip_ne di.l di.r hr).right

/-- Settles O31: a flag moves the drive vector, which the frame determines. -/
theorem flagChangeChangesFrame : Obligations.FlagChangeChangesFrame := by
  intro c di d hv hr hmax heq
  obtain ⟨hvel, hrot⟩ := driveVector_eq_of_driveFrame_eq hmax heq
  exact (driveVector_flip_ne hv hr di d).elim (· hvel) (· hrot)

/-! ## The drive update (R143) -/

/-- Settles O32, by whether `LS` holds the frame of the flags. -/
theorem driveUpdateMeaning : Obligations.DriveUpdateMeaning := by
  intro s
  obtain ⟨f, hf, hupdate⟩ := driveUpdate_spec s
  refine ⟨f, hf, fun h => ?_, fun h => ?_⟩
  · rw [hupdate, if_pos h, respondNone_eq]
  · rw [hupdate, if_neg h]
    exact transmitDrive_spec f s

/-! ## The keys (R144, R145) -/

/-- An event that finds its flag as it wants it only answers. -/
theorem directionEvent_of_same {d : Direction} {v : Bool} {s : State} (h : getFlag s.di d = v) :
    directionEvent d v s = .next { s with resp := some (responseBlank .ok (intentBits s.di) s.h) } := by
  rw [directionEvent_same h, setFlag_same h, respondNone_eq]
  rfl

/-- An event that changes its flag is a drive update from the new flags. -/
theorem directionEvent_updatesDrive {d : Direction} {v : Bool} {s : State} (h : getFlag s.di d ≠ v) :
    UpdatesDrive { s with di := setFlag s.di d v } (directionEvent d v s) := by
  rw [directionEvent_change h]
  exact driveUpdateMeaning _

section

variable {sym : BitVec 4}

theorem exec_keyPress_of_direction {d : Direction} (h : directionOf sym = some d) (s : State) :
    exec (.keyPress sym) s = directionEvent d true s := by
  simp only [exec, execKeyPress, h]

theorem exec_keyRelease_of_direction {d : Direction} (h : directionOf sym = some d) (s : State) :
    exec (.keyRelease sym) s = directionEvent d false s := by
  simp only [exec, execKeyRelease, h]

theorem exec_keyPress_of_unbound (h : directionOf sym = none) (hk : cfg.keymap sym = none) (s : State) :
    exec (.keyPress sym) s = respondNone s := by
  simp only [exec, execKeyPress, h, hk]

theorem exec_keyRelease_of_no_direction (h : directionOf sym = none) (s : State) :
    exec (.keyRelease sym) s = respondNone s := by
  simp only [exec, execKeyRelease, h]

/-- Codes 0 to 3 alone are direction keys (R66). -/
theorem directionOf_eq_none : 4 ≤ sym.toNat → directionOf sym = none := by
  revert sym
  decide

/-- Codes 11 to 15 are bound to nothing (R66). -/
theorem keymap_eq_none : 11 ≤ sym.toNat → cfg.keymap sym = none := by
  revert sym
  decide

end

theorem exec_discreteKeys {p : BitVec 4 × Instr} (hp : p ∈ discreteKeys) (s : State) :
    exec (.keyPress p.1) s = exec p.2 s := by
  simp only [discreteKeys, List.mem_cons, List.not_mem_nil, or_false] at hp
  rcases hp with rfl | rfl | rfl | rfl | rfl | rfl | rfl <;> rfl

/-- Settles O33: a direction key is its event, a discrete key its row, and any other key answers. -/
theorem keyPressMeaning : Obligations.KeyPressMeaning := by
  refine ⟨fun sym => decodeOfEncodeIsIdentity (.keyPress sym) rfl, ⟨rfl, rfl, rfl, rfl⟩,
    fun di => ⟨⟨rfl, rfl, rfl, rfl⟩, fun v => ⟨rfl, rfl, rfl, rfl⟩⟩,
    fun s => ⟨fun sym d hd hflag => ?_, fun sym d hd hflag => ?_, fun p hp => exec_discreteKeys hp s, fun sym h => ?_⟩⟩
  · rw [exec_keyPress_of_direction hd]
    exact directionEvent_updatesDrive (by simp [hflag])
  · rw [exec_keyPress_of_direction hd, directionEvent_of_same hflag]
  · rw [exec_keyPress_of_unbound (directionOf_eq_none (by omega)) (keymap_eq_none h), respondNone_eq]

/-- Settles O34: a direction key is its event, and any other key answers. -/
theorem keyReleaseMeaning : Obligations.KeyReleaseMeaning := by
  refine ⟨fun sym => decodeOfEncodeIsIdentity (.keyRelease sym) rfl,
    fun s => ⟨fun sym d hd hflag => ?_, fun sym d hd hflag => ?_, fun sym h => ?_⟩⟩
  · rw [exec_keyRelease_of_direction hd]
    exact directionEvent_updatesDrive (by simp [hflag])
  · rw [exec_keyRelease_of_direction hd, directionEvent_of_same hflag]
  · rw [exec_keyRelease_of_no_direction (directionOf_eq_none h), respondNone_eq]

/-! ## Duplicate suppression (R143, R153) -/

/-- A drive update that echoes a frame echoes the frame of its flags, and `LS` did not hold it. -/
theorem driveUpdate_echo {s s' : State} {f : Frame} (h : driveUpdate s = .next s')
    (hecho : s'.echoLog = s.echoLog ++ [f]) :
    ∃ g, driveFrame cfg s.di = .ok g ∧ f = g.toList ∧ ¬ (s.ls.valid = true ∧ s.ls.frame = g) := by
  rcases driveUpdate_cases s with ⟨_, _, _, _, e⟩ | ⟨g, hg, hne, e⟩
  · rw [h, respondNone_eq] at e
    cases e
    simp at hecho
  · rcases transmitDrive_cases g s with ⟨_, _, _, et⟩ | ⟨_, _, _, et⟩ <;> rw [h, et] at e <;> cases e
    · exact ⟨g, hg, by simpa using hecho.symm, hne⟩
    · simp at hecho

/-- Only an event that changes its flag can echo a frame. -/
theorem directionEvent_echo {d : Direction} {v : Bool} {s s' : State} {f : Frame}
    (h : directionEvent d v s = .next s') (hecho : s'.echoLog = s.echoLog ++ [f]) :
    ∃ g, driveFrame cfg (setFlag s.di d v) = .ok g ∧ f = g.toList ∧ ¬ (s.ls.valid = true ∧ s.ls.frame = g) := by
  by_cases hflag : getFlag s.di d = v
  · rw [directionEvent_of_same hflag] at h
    cases h
    simp at hecho
  · rw [directionEvent_change hflag] at h
    exact driveUpdate_echo (s := s.setDi (setFlag s.di d v)) h hecho

theorem isDriveFrame_driveFrame {di : DriveIntent} {g : Vector Byte 5} (h : driveFrame cfg di = .ok g) :
    isDriveFrame g.toList = true := by
  rw [driveFrame_bytes] at h
  cases h
  exact isDriveFrame_driveBytes _ _

/-- A direction key is an event of its direction. -/
theorem exec_directionKey {i : Instr} {sym : BitVec 4} (hi : i = .keyPress sym ∨ i = .keyRelease sym)
    (hsym : directionOf sym ≠ none) (s : State) : ∃ d v, exec i s = directionEvent d v s := by
  obtain ⟨d, hd⟩ := Option.ne_none_iff_exists'.1 hsym
  rcases hi with rfl | rfl
  · exact ⟨d, true, exec_keyPress_of_direction hd s⟩
  · exact ⟨d, false, exec_keyRelease_of_direction hd s⟩

/-- Settles O36: the frame echoed is one that the valid `LS` did not hold, and `LS` held the last Drive frame. -/
theorem directionKeysNeverRepeatTheLastFrame : Obligations.DirectionKeysNeverRepeatTheLastFrame := by
  intro i sym s s' f hi hsym hrecorded hvalid h hecho
  obtain ⟨d, v, hevent⟩ := exec_directionKey hi hsym s
  obtain ⟨g, hg, rfl, hne⟩ := directionEvent_echo (hevent.symm.trans h) hecho
  refine ⟨isDriveFrame_driveFrame hg, fun hlast => hne ⟨hvalid, ?_⟩⟩
  rw [(hrecorded hvalid).2, Option.some.injEq] at hlast
  exact Vector.toList_inj.1 hlast

end Sys2Proof.Machine

/-! SUPPORT. The handle lifecycle (spec section 44): what ATTACH and DETACH leave, and which operation can make an
invalid handle valid. -/

namespace Sys2Proof.Machine

open Sys2Proof.Safety

/-- ATTACH responds over `H = 1` and an unset `LS`, whatever the state (R171). -/
theorem exec_attach (s : State) :
    exec .attach s = .next { s with
      h := true, ls := { valid := false, frame := s.ls.frame },
      resp := some (responseBlank .ok (intentBits s.di) true) } :=
  respondNone_eq (s.forgetSent.setHandle true)

/-- DETACH responds over `H = 0` and an unset `LS`, whatever the state (R172). -/
theorem exec_detach (s : State) :
    exec .detach s = .next { s with
      h := false, ls := { valid := false, frame := s.ls.frame },
      resp := some (responseBlank .ok (intentBits s.di) false) } :=
  respondNone_eq ((s.setHandle false).forgetSent)

/-- Of all effects only the handle's own can take `H` from 0 to 1, and it does so for ATTACH (R15, R171). -/
theorem Effect.eq_attach_of_handle_rises {i : Instr} {s s1 : State} {e : Status} (heff : Effect i s e s1)
    (hbefore : s.h = false) (hafter : s1.h = true) : i = .attach := by
  cases heff with
  | quiet | echoed | driven => exact absurd hafter (by simp [hbefore])
  | lost => cases hafter
  | handle v hi =>
    rcases hi with ⟨hattach, _⟩ | ⟨_, hv⟩
    · exact hattach
    · cases hv.symm.trans hafter

/-- Settles O27: the response of ATTACH keeps the frame of `LS`, and no other effect makes the handle valid. -/
theorem attachMeaning : Obligations.AttachMeaning := by
  refine ⟨decodeOfEncodeIsIdentity .attach rfl, fun s => ⟨s.ls.frame, exec_attach s⟩, fun i s s' h hbefore hafter => ?_⟩
  obtain ⟨s1, r, rfl, _, heff⟩ := exec_next h
  exact heff.eq_attach_of_handle_rises hbefore hafter

/-- Settles O28: the response of DETACH keeps the frame of `LS`. -/
theorem detachMeaning : Obligations.DetachMeaning :=
  ⟨decodeOfEncodeIsIdentity .detach rfl, fun s => ⟨s.ls.frame, exec_detach s⟩⟩

end Sys2Proof.Machine

/-! SUPPORT. Exceptions (spec section 60): the idle step, every way an instruction can fail and the state it fails in,
and the order in which causes are looked at. -/

namespace Sys2Proof.Machine

open Sys2Proof.Safety

/-! ## The idle block (R196) -/

/-- Settles O7: no turn, no operation. -/
theorem idleStepChangesNothing : Obligations.IdleStepChangesNothing := by
  intro s hs
  rw [step, hs]

/-! ## The status of a response -/

@[simp] theorem blankResponse_status (e : Status) (s : State) : (blankResponse e s).status = e := rfl

@[simp] theorem frameResponse_status (sent : Bool) (f : Frame) (s : State) :
    (frameResponse sent f s).status = .ok := rfl

/-! ## A send that loses the connection (R46) -/

section

variable {s s1 : State}

/-- A send that fails has one of the three causes, and has written TX and `H` alone. -/
theorem send_eq_lost {f : Frame} (h : send f s = .lost s1) :
    (s.h = false ∨ s.answers.isOpen = false ∨ ∃ k, s.answers.tx = .fault k) ∧
      ∃ bytes, s1 = (s.appendTx bytes).setHandle false := by
  refine ⟨?_, ?_⟩
  · rcases send_cases f s with ⟨_, _, _, e⟩ | ⟨hh, _⟩ | ⟨_, ho, _⟩ | ⟨k, _, _, ht, _⟩
    · cases h.symm.trans e
    · exact .inl hh
    · exact .inr (.inl ho)
    · exact .inr (.inr ⟨k, ht⟩)
  · rcases send_ok_or_lost f s with e | ⟨bytes, e⟩ <;> cases h.symm.trans e
    exact ⟨bytes, rfl⟩

theorem transmitDrive_of_lost {f : Vector Byte 5} (h : send f.toList s = .lost s1) :
    transmitDrive f s = raise .connectionLost s1 := by
  rw [transmitDrive, h]

theorem transmitDrive_of_sent {f : Vector Byte 5} (h : send f.toList s = .ok s1) :
    transmitDrive f s = respondFrame true f.toList (s1.recordSent f) := by
  rw [transmitDrive, h]

end

/-- Every discrete frame is the bytes of a wire frame (R51). -/
theorem exists_wireBytes_frameOf (k : Kind) : ∃ j, isWire j = true ∧ wireBytes j = frameOf cfg k := by
  obtain ⟨j, hj, he⟩ := exists_wire_frameOf k
  exact ⟨j, hj, Signal.frame.inj ((encode_of_isWire hj).symm.trans he)⟩

/-! ## How an instruction can fail (R180) -/

/-- The operands of `i` have no encoding: an integer outside its type, or speeds that do not fit the Drive frame. -/
def OperandsOutOfRange (i : Instr) : Prop :=
  (∃ v t, i = .encint v t ∧ ¬ (rangeLo t ≤ v.toInt ∧ v.toInt ≤ rangeHi t)) ∨
    ∃ vr vl, (i = .encDrive vr vl ∨ i = .txDrive vr vl) ∧ ¬ speedsInRange vr.toInt vl.toInt

/-- `di` is what `i`, begun in `s`, may have made of the flags before it sends: only a direction key writes its own
flag (R144, R145). -/
def FlagsBeforeSend (i : Instr) (s : State) (di : DriveIntent) : Prop :=
  di = s.di ∨ ∃ sym d, directionOf sym = some d ∧
    ((i = .keyPress sym ∧ di = setFlag s.di d true) ∨ (i = .keyRelease sym ∧ di = setFlag s.di d false))

/-- The operation `i`, begun in `s`, fails with a status, raised in a state. -/
inductive Failure (i : Instr) (s : State) : Status → State → Prop
  /-- The encode fails before anything is written (R84, R110, R118). -/
  | range (hi : OperandsOutOfRange i) : Failure i s .rangeError s
  /-- DECINT is given another number of bytes than its width (R85). -/
  | count {bs : List Byte} {t : IntType} (hi : i = .decint bs t) (hlen : bs.length ≠ widthBytes t.w) :
      Failure i s .formatError s
  /-- A READ is cut short (R130). -/
  | shortRead {t : IntType} {s1 : State} (hi : i = .read t) (hh : s.h = true) (ho : s.answers.isOpen = true)
      (hrx : rxReadExact (widthBytes t.w) s = .short s1) : Failure i s .formatError (s1.setHandle false)
  /-- A READ has no usable handle, or meets a fault (R130). -/
  | lostRead {t : IntType} (rx : List Byte) (hi : i = .read t)
      (hcause : s.h = false ∨ s.answers.isOpen = false ∨ ∃ k, s.answers.rx = .fault k) :
      Failure i s .connectionLost ((s.setRx rx).setHandle false)
  /-- The `send` of one of the wire frames fails (R46). -/
  | lostSend {j : Instr} {di : DriveIntent} {s1 : State} (hpure : isPure i = false) (hi : ¬ IsLifecycle i)
      (hdi : FlagsBeforeSend i s di) (hj : isWire j = true) (hsend : send (wireBytes j) (s.setDi di) = .lost s1) :
      Failure i s .connectionLost s1

/-- `out` is a response of the operation `i` begun in `s`, with status OK or over one of its failures. -/
def OkOrFails (i : Instr) (s : State) (out : Result) : Prop :=
  ∃ s1 r, out = .next (s1.setResp r) ∧ (r.status = .ok ∨ Failure i s r.status s1)

section

variable {i : Instr} {s s1 : State}

theorem raise_okOrFails {e : Status} (h : Failure i s e s1) : OkOrFails i s (raise e s1) :=
  ⟨s1, _, rfl, .inr h⟩

theorem respondNone_okOrFails (s1 : State) : OkOrFails i s (respondNone s1) := ⟨s1, _, rfl, .inl rfl⟩

theorem respondFrame_okOrFails (sent : Bool) (f : Frame) (s1 : State) : OkOrFails i s (respondFrame sent f s1) :=
  ⟨s1, _, rfl, .inl rfl⟩

theorem respondValue_okOrFails (t : IntType) (v : Int) (s1 : State) : OkOrFails i s (respondValue t v s1) :=
  ⟨s1, _, rfl, .inl rfl⟩

theorem transmit_okOrFails (k : Kind) (hpure : isPure i = false) (hi : ¬ IsLifecycle i) :
    OkOrFails i s (transmit (frameOf cfg k) s) := by
  obtain ⟨j, hj, hbytes⟩ := exists_wireBytes_frameOf k
  cases hsend : send (frameOf cfg k) s with
  | ok s1 =>
    rw [transmit, hsend]
    exact respondFrame_okOrFails true _ s1
  | lost s1 =>
    rw [transmit, hsend]
    exact raise_okOrFails (.lostSend (di := s.di) hpure hi (.inl rfl) hj (hbytes ▸ hsend))

/-- The instructions that can transmit a Drive frame are none of the pure ones. -/
theorem DrivesRobot.not_pure (hi : DrivesRobot i) : isPure i = false := by
  rcases hi with ⟨_, _, rfl⟩ | ⟨_, _, rfl⟩ | ⟨_, _, rfl | rfl⟩ <;> rfl

theorem transmitDrive_okOrFails {di : DriveIntent} (vr vl : BitVec 16) (hi : DrivesRobot i)
    (hdi : FlagsBeforeSend i s di) : OkOrFails i s (transmitDrive (driveBytes cfg vr vl) (s.setDi di)) := by
  cases hsend : send (driveBytes cfg vr vl).toList (s.setDi di) with
  | ok s1 =>
    rw [transmitDrive_of_sent hsend]
    exact respondFrame_okOrFails true _ _
  | lost s1 =>
    rw [transmitDrive_of_lost hsend]
    exact raise_okOrFails (.lostSend (j := .wireDrive vr vl) hi.not_pure hi.not_lifecycle hdi rfl hsend)

theorem driveUpdate_okOrFails {di : DriveIntent} (hi : DrivesRobot i) (hdi : FlagsBeforeSend i s di) :
    OkOrFails i s (driveUpdate (s.setDi di)) := by
  rw [driveUpdate_of_frame (driveFrame_bytes _ _)]
  split
  · exact respondNone_okOrFails _
  · exact transmitDrive_okOrFails _ _ hi hdi

theorem execRead_okOrFails_or_fault (t : IntType) (s : State) :
    OkOrFails (.read t) s (execRead t s) ∨ execRead t s = .fault .readBlocked := by
  rcases execRead_cases t s with ⟨hh, e⟩ | ⟨_, ho, e⟩ |
    ⟨hh, ho, ⟨v, _, _, e⟩ | ⟨rest, hrx, e⟩ | ⟨k, rest, ha, _, e⟩ | ⟨_, e⟩⟩
  · have hs : (s.setRx s.rx).setHandle false = s := by rw [← hh]; rfl
    have hfail : Failure (.read t) s .connectionLost s := by
      simpa only [hs] using Failure.lostRead (i := .read t) s.rx rfl (.inl hh)
    exact .inl (e ▸ raise_okOrFails hfail)
  · exact .inl (e ▸ raise_okOrFails (.lostRead s.rx rfl (.inr (.inl ho))))
  · exact .inl (e ▸ respondValue_okOrFails t v _)
  · exact .inl (e ▸ raise_okOrFails (.shortRead rfl hh ho hrx))
  · exact .inl (e ▸ raise_okOrFails (.lostRead rest rfl (.inr (.inr ⟨k, ha⟩))))
  · exact .inr e

/-- Every instruction responds with OK or fails in one of these ways, or is a READ that never ends (R205). -/
theorem exec_okOrFails_or_fault (i : Instr) (s : State) :
    OkOrFails i s (exec i s) ∨ exec i s = .fault .readBlocked := by
  rcases exec_shapes i s with ⟨_, ⟨f, _, _, e⟩ | ⟨t, v, e⟩ | ⟨e, hrange⟩ | ⟨e, _, _, hi, hlen⟩⟩ |
    ⟨vr, vl, hi, hrange, e⟩ | ⟨_, _, e⟩ | ⟨k, e, hpure, ha, hd, _⟩ | ⟨_, _, ⟨vr, vl, rfl⟩, e, hi⟩ |
    ⟨sym, d, v, hsym, hi, _, e⟩ | ⟨t, rfl, e⟩ | ⟨_, e⟩ | ⟨_, e⟩
  · exact .inl (e ▸ respondFrame_okOrFails false f s)
  · exact .inl (e ▸ respondValue_okOrFails t v s)
  · have hout : OperandsOutOfRange i := hrange.imp_right fun ⟨vr, vl, hi, h⟩ => ⟨vr, vl, .inl hi, h⟩
    exact .inl (e ▸ raise_okOrFails (.range hout))
  · exact .inl (e ▸ raise_okOrFails (.count hi hlen))
  · exact .inl (e ▸ raise_okOrFails (.range (.inr ⟨vr, vl, .inr hi, hrange⟩)))
  · exact .inl (e ▸ respondNone_okOrFails s)
  · exact .inl (e ▸ transmit_okOrFails k hpure (not_or.2 ⟨ha, hd⟩))
  · exact .inl (e ▸ transmitDrive_okOrFails vr vl (hi.imp_right .inl) (.inl rfl))
  · have hkey : DrivesRobot i := .inr (.inr ⟨sym, by simp [hsym], hi.imp And.left And.left⟩)
    have hdi : FlagsBeforeSend i s (setFlag s.di d v) := by
      refine .inr ⟨sym, d, hsym, hi.imp ?_ ?_⟩ <;> exact fun ⟨hi, hv⟩ => ⟨hi, by rw [hv]⟩
    exact .inl (e ▸ driveUpdate_okOrFails hkey hdi)
  · exact e ▸ execRead_okOrFails_or_fault t s
  · exact .inl (e ▸ respondNone_okOrFails _)
  · exact .inl (e ▸ respondNone_okOrFails _)

/-- The inversion of an instruction by its status: the response says OK, or tells one of the failures. -/
theorem exec_next_ok_or_failure {s' : State} {r : Response} (h : exec i s = .next s') (hr : s'.resp = some r) :
    ∃ s1, s' = s1.setResp r ∧ (r.status = .ok ∨ Failure i s r.status s1) := by
  rcases exec_okOrFails_or_fault i s with ⟨s1, r', e, hstatus⟩ | e <;> cases h.symm.trans e
  cases hr
  exact ⟨s1, rfl, hstatus⟩

end

/-! ## The taxonomy -/

/-- Settles O39, failure by failure. -/
theorem statusTable : Obligations.StatusTable := by
  intro i s s' r _ h hr
  obtain ⟨s1, rfl, hok | hfail⟩ := exec_next_ok_or_failure h hr
  · simp [hok]
  · generalize r.status = e at hfail ⊢
    cases hfail with
    | range hi => exact ⟨fun _ => ⟨rfl, hi⟩, nofun, nofun, nofun⟩
    | count hi hlen => exact ⟨nofun, fun _ => .inl ⟨_, _, hi, hlen, rfl⟩, nofun, nofun⟩
    | shortRead hi hh ho hrx => exact ⟨nofun, fun _ => .inr ⟨_, _, hi, hh, ho, hrx, rfl⟩, nofun, nofun⟩
    | lostRead rx hi hcause =>
      subst hi
      refine ⟨nofun, nofun, fun _ => ⟨rfl, rfl, nofun, nofun, ?_⟩, nofun⟩
      exact hcause.imp_right (.imp_right fun ⟨k, hk⟩ => .inr ⟨_, k, rfl, hk⟩)
    | lostSend hpure hi _ _ hsend =>
      obtain ⟨hcause, _, rfl⟩ := send_eq_lost hsend
      obtain ⟨hattach, hdetach⟩ := not_or.1 hi
      exact ⟨nofun, nofun, fun _ => ⟨rfl, hpure, hattach, hdetach, hcause.imp_right (.imp_right .inl)⟩, nofun⟩

/-- Settles O40: ConnectionLost is a failure of READ or of a `send`, and neither writes `LS`, ECHOLOG or a flag. -/
theorem connectionLostEffects : Obligations.ConnectionLostEffects := by
  intro i s s' r h hr hlost
  obtain ⟨s1, rfl, hok | hfail⟩ := exec_next_ok_or_failure h hr
  · cases hlost.symm.trans hok
  · rw [hlost] at hfail
    cases hfail with
    | lostRead rx hi => exact ⟨rfl, rfl, rfl, .inl rfl, .inl ⟨⟨_, hi⟩, rfl⟩⟩
    | lostSend _ _ hdi hj hsend =>
      obtain ⟨_, _, rfl⟩ := send_eq_lost hsend
      exact ⟨rfl, rfl, rfl, hdi, .inr ⟨_, _, hj, hsend, rfl⟩⟩

/-! ## The order of the causes (R186) -/

/-- TX.DRIVE looks at the range, the handle, the transport's liveness and its answer, in that order. -/
theorem exec_txDrive_priority (vr vl : BitVec 32) (s : State) :
    ∃ s' r, exec (.txDrive vr vl) s = .next s' ∧ s'.resp = some r ∧
      (¬ speedsInRange vr.toInt vl.toInt → r.status = .rangeError ∧ s'.h = s.h) ∧
      (speedsInRange vr.toInt vl.toInt →
        (s.h = false → r.status = .connectionLost) ∧
        (s.h = true → s.answers.isOpen = false → r.status = .connectionLost ∧ s'.txLog = s.txLog) ∧
        (s.h = true → s.answers.isOpen = true → (∃ k, s.answers.tx = .fault k) → r.status = .connectionLost) ∧
        (s.h = true → s.answers.isOpen = true → s.answers.tx = .ok → r.status = .ok)) := by
  by_cases hrange : speedsInRange vr.toInt vl.toInt
  · have hexec := exec_txDrive_of_ok (encodeDrive_of_speedsInRange cfg hrange) s
    rcases send_cases (driveBytes cfg (BitVec.ofInt 16 vr.toInt) (BitVec.ofInt 16 vl.toInt)).toList s with
      ⟨hh, ho, ht, e⟩ | ⟨hh, e⟩ | ⟨hh, ho, e⟩ | ⟨k, hh, ho, ht, e⟩
    · refine ⟨_, _, hexec.trans (transmitDrive_of_sent e), rfl, absurd hrange, fun _ => ?_⟩
      simp [hh, ho, ht]
    · refine ⟨_, _, hexec.trans (transmitDrive_of_lost e), rfl, absurd hrange, fun _ => ?_⟩
      simp [hh]
    · refine ⟨_, _, hexec.trans (transmitDrive_of_lost e), rfl, absurd hrange, fun _ => ?_⟩
      simp [hh, ho]
    · refine ⟨_, _, hexec.trans (transmitDrive_of_lost e), rfl, absurd hrange, fun _ => ?_⟩
      simp [hh, ho, ht]
  · exact ⟨_, _, exec_txDrive_of_error (encodeDrive_of_not_speedsInRange cfg hrange) s, rfl, fun _ => ⟨rfl, rfl⟩,
      (absurd · hrange)⟩

/-- READ looks at the handle and the transport's liveness before the transport's answer. -/
theorem exec_read_priority (t : IntType) {s : State} (hanswer : s.answers.rx ≠ .never) :
    ∃ s' r, exec (.read t) s = .next s' ∧ s'.resp = some r ∧
      (s.h = false ∨ s.answers.isOpen = false → r.status = .connectionLost ∧ s'.rx = s.rx) ∧
      (s.h = true → s.answers.isOpen = true →
        (∀ s1, rxReadExact (widthBytes t.w) s = .fault s1 → r.status = .connectionLost) ∧
        (∀ s1, rxReadExact (widthBytes t.w) s = .short s1 → r.status = .formatError)) := by
  rcases execRead_cases t s with ⟨hh, e⟩ | ⟨_, ho, e⟩ |
    ⟨hh, ho, ⟨_, _, hrx, e⟩ | ⟨_, hrx, e⟩ | ⟨_, _, _, hrx, e⟩ | ⟨hnever, _⟩⟩
  · exact ⟨_, _, e, rfl, fun _ => ⟨rfl, rfl⟩, fun h => by simp [hh] at h⟩
  · exact ⟨_, _, e, rfl, fun _ => ⟨rfl, rfl⟩, fun _ h => by simp [ho] at h⟩
  · exact ⟨_, _, e, rfl, by simp [hh, ho], fun _ _ => by simp [hrx]⟩
  · exact ⟨_, _, e, rfl, by simp [hh, ho], fun _ _ => by simp [hrx]⟩
  · exact ⟨_, _, e, rfl, by simp [hh, ho], fun _ _ => by simp [hrx]⟩
  · exact absurd hnever hanswer

/-- Settles O41: a reserved word is raised by the decoder, before any instruction looks at a cause. -/
theorem errorPriority : Obligations.ErrorPriority :=
  ⟨fun _ _ _ _ hs ht hw => ⟨_, _, step_reserved hs ht hw, rfl, rfl, rfl⟩, exec_txDrive_priority,
    fun t _ => exec_read_priority t⟩

end Sys2Proof.Machine

/-! SUPPORT. The opcode table (spec/opcode_table.json): the row a command word selects is the row of what it decodes
to. -/

namespace Sys2Proof.Machine

open Sys2Proof.Safety

/-! ## What decodes stands in its row -/

/-- What encodes a well-formed instruction stands in its row: the family TableRow as one statement. -/
theorem inRow_encode (i : Instr) : Laws.TableRow.Statement i := by
  open Laws.TableRow in
  cases i
  exacts [attach, detach, encPassive, encSafe, encFull, encClean, encDock, encReset, encBeep, encDrive _ _, txPassive,
    txSafe, txFull, txClean, txDock, txReset, txBeep, txDrive _ _, keyPress _, keyRelease _, read _, encint _ _,
    decint _ _, wirePassive, wireSafe, wireFull, wireClean, wireDock, wireReset, wireBeep, wireDrive _ _]

/-- A command row that fixes `OP`, and of `A` and `B` what `ma` and `mb` mask, which must be 0 (R58 to R63). -/
structure FixesFields (r : Row) (op : BitVec 8) (ma mb : BitVec 32) : Prop where
  width : r.width = 72
  mask : BitVec.ofNat 72 r.mask = packFields ⟨0xFF, ma, mb⟩
  bits : BitVec.ofNat 72 r.bits = packFields ⟨op, 0, 0⟩

theorem FixesFields.rowSelects_iff {r : Row} {op : BitVec 8} {ma mb : BitVec 32} {w : CommandWord}
    (hr : FixesFields r op ma mb) :
    rowSelects r w = true ↔ (fieldsOf w).op = op ∧ (fieldsOf w).a &&& ma = 0 ∧ (fieldsOf w).b &&& mb = 0 := by
  have h := Laws.TableRow.selects_fields (f := fieldsOf w) hr.width hr.mask hr.bits
  rwa [packFields_fieldsOf, show (0xFF : BitVec 8) = BitVec.allOnes 8 from rfl, BitVec.and_allOnes] at h

theorem fixesFields_encDrive (vr vl : BitVec 32) :
    FixesFields (tableRow (.encDrive vr vl)) 0x17 0 0 := by
  rw [tableRow]
  exact ⟨rfl, rfl, rfl⟩

theorem fixesFields_txDrive (vr vl : BitVec 32) :
    FixesFields (tableRow (.txDrive vr vl)) 0x27 0 0 := by
  rw [tableRow]
  exact ⟨rfl, rfl, rfl⟩

theorem fixesFields_keyPress (sym : BitVec 4) :
    FixesFields (tableRow (.keyPress sym)) 0x30 (BitVec.allOnes 32) 0xFFFFFFF0 := by
  rw [tableRow]
  exact ⟨rfl, rfl, rfl⟩

theorem fixesFields_keyRelease (sym : BitVec 4) :
    FixesFields (tableRow (.keyRelease sym)) 0x31 (BitVec.allOnes 32) 0xFFFFFFF0 := by
  rw [tableRow]
  exact ⟨rfl, rfl, rfl⟩

theorem fixesFields_read (t : IntType) :
    FixesFields (tableRow (.read t)) 0x40 (BitVec.allOnes 32) 0xFFFFFFFC := by
  rw [tableRow]
  exact ⟨rfl, rfl, rfl⟩

theorem fixesFields_encint (v : BitVec 32) (t : IntType) :
    FixesFields (tableRow (.encint v t)) 0x50 0 0xFFFFFFFC := by
  rw [tableRow]
  exact ⟨rfl, rfl, rfl⟩

theorem fixesFields_decint (bs : List Byte) (t : IntType) :
    FixesFields (tableRow (.decint bs t)) 0x51 0 0xFFFFFFE0 := by
  rw [tableRow]
  exact ⟨rfl, rfl, rfl⟩

/-- The constraint of DECINT's row is about the count in `B` (R61). -/
theorem rowConstraint_decint {bs : List Byte} {t : IntType} {w : CommandWord} :
    rowConstraint (.decint bs t) w = true ↔ ((fieldsOf w).b.extractLsb' 2 3).toNat ≤ 4 := by
  rw [← Laws.TableRow.countField, packFields_fieldsOf]
  exact decide_eq_true_iff

theorem row_of_decodeCommand {w : CommandWord} {i : Instr} (h : decodeCommand w = .ok i) :
    rowSelects (tableRow i) w = true ∧ rowConstraint i w = true := by
  rcases decodeFields_readsAs h with ⟨hne, henc⟩ | ⟨bs, t, rfl, hlen, hop, _, hb⟩
  · have hrow := inRow_encode i (wf_of_ne_decint hne)
    rw [henc, packFields_fieldsOf] at hrow
    exact Bool.and_eq_true_iff.1 hrow
  · obtain ⟨hmask, hcount⟩ := Laws.TableRow.countBits bs.length hlen t
    rw [(fixesFields_decint bs t).rowSelects_iff, rowConstraint_decint, hb, hcount]
    exact ⟨⟨hop, BitVec.and_zero, hmask⟩, hlen⟩

/-! ## What stands in a row decodes to an instruction of that row -/

/-- Bits under a mask of ones are 0 when the mask leaves nothing. -/
theorem extractLsb'_eq_zero_of_and {b mask : BitVec 32} {n m : Nat} (hmask : mask.extractLsb' n m = BitVec.allOnes m)
    (h : b &&& mask = 0) : b.extractLsb' n m = 0 :=
  calc b.extractLsb' n m = (b &&& mask).extractLsb' n m := by rw [BitVec.extractLsb'_and, hmask, BitVec.and_allOnes]
    _ = 0 := by simp [h]

/-- A word with the fields of an instruction's encoding decodes to that instruction. -/
theorem decodeCommand_of_fields {w : CommandWord} {j : Instr} {f : Fields} (hwf : j.wf = true)
    (henc : encode j = .command (packFields f)) (hw : fieldsOf w = f) : decodeCommand w = .ok j := by
  have h := decodeOfEncodeIsIdentity j hwf
  rwa [henc, ← hw, packFields_fieldsOf] at h

/-- A row whose every bit is fixed is selected by one word alone. -/
theorem rowSelects_rowN {bits : Nat} {w : CommandWord} :
    rowSelects (rowN bits) w = true ↔ w = BitVec.ofNat 72 bits := by
  have hmask : BitVec.ofNat 72 (rowN bits).mask = BitVec.allOnes 72 := rfl
  rw [rowSelects, hmask, BitVec.and_allOnes, decide_eq_true_iff]
  exact and_iff_right rfl

theorem decodeCommand_of_rowN {i : Instr} {bits : Nat} {w : CommandWord} (hwf : i.wf = true)
    (henc : encode i = .command (BitVec.ofNat 72 bits)) (h : rowSelects (rowN bits) w = true) :
    decodeCommand w = .ok i := by
  have hi := decodeOfEncodeIsIdentity i hwf
  rwa [henc, ← rowSelects_rowN.1 h] at hi

section

variable {r : Row} {op : BitVec 8} {w : CommandWord}

theorem FixesFields.formatD_fields (hr : FixesFields r op 0 0) (h : rowSelects r w = true) :
    ∃ a b, fieldsOf w = ⟨op, a, b⟩ := by
  obtain ⟨rfl, _, _⟩ := hr.rowSelects_iff.1 h
  exact ⟨_, _, rfl⟩

theorem FixesFields.formatK_fields (hr : FixesFields r op (BitVec.allOnes 32) 0xFFFFFFF0) (h : rowSelects r w = true) :
    ∃ sym : BitVec 4, fieldsOf w = ⟨op, 0, sym.setWidth 32⟩ := by
  obtain ⟨rfl, ha, hb⟩ := hr.rowSelects_iff.1 h
  rw [BitVec.and_allOnes] at ha
  refine ⟨(fieldsOf w).b.extractLsb' 0 4, ?_⟩
  rw [setWidth_extractLsb'_key (extractLsb'_eq_zero_of_and (by decide) hb), ← ha]

theorem FixesFields.formatR_fields (hr : FixesFields r op (BitVec.allOnes 32) 0xFFFFFFFC) (h : rowSelects r w = true) :
    ∃ t, fieldsOf w = ⟨op, 0, typeBits t⟩ := by
  obtain ⟨rfl, ha, hb⟩ := hr.rowSelects_iff.1 h
  rw [BitVec.and_allOnes] at ha
  refine ⟨typeOf (fieldsOf w).b, ?_⟩
  rw [typeBits_typeOf (extractLsb'_eq_zero_of_and (by decide) hb), ← ha]

theorem FixesFields.formatE_fields (hr : FixesFields r op 0 0xFFFFFFFC) (h : rowSelects r w = true) :
    ∃ v t, fieldsOf w = ⟨op, v, typeBits t⟩ := by
  obtain ⟨rfl, _, hb⟩ := hr.rowSelects_iff.1 h
  refine ⟨(fieldsOf w).a, typeOf (fieldsOf w).b, ?_⟩
  rw [typeBits_typeOf (extractLsb'_eq_zero_of_and (by decide) hb)]

/-- DECINT's row says nothing of the bytes of `A` behind the first `n`, so its words are not all encodings (R61). -/
theorem decodeCommand_of_rowX {bs : List Byte} {t : IntType} (h : rowSelects (tableRow (.decint bs t)) w = true)
    (hc : rowConstraint (.decint bs t) w = true) : ∃ bs' t', decodeCommand w = .ok (.decint bs' t') := by
  obtain ⟨hop, _, hb⟩ := (fixesFields_decint bs t).rowSelects_iff.1 h
  have htop : (fieldsOf w).b.extractLsb' 5 27 = 0 := extractLsb'_eq_zero_of_and (by decide) hb
  rw [decodeCommand, decodeFields_formatX (congrArg BitVec.toNat hop), formatX, if_pos htop,
    if_pos (rowConstraint_decint.1 hc)]
  exact ⟨_, _, rfl⟩

end

/-- No command word selects the row of a wire frame: the row is narrower. -/
theorem isWire_of_rowSelects {i : Instr} {w : CommandWord} (h : rowSelects (tableRow i) w = true) :
    isWire i = false := by
  obtain ⟨hwidth, _⟩ := of_decide_eq_true h
  cases i with
  | wirePassive | wireSafe | wireFull | wireClean | wireDock | wireReset | wireBeep | wireDrive => cases hwidth
  | _ => rfl

theorem decodeCommand_of_row {w : CommandWord} {i : Instr} (h : rowSelects (tableRow i) w = true)
    (hc : rowConstraint i w = true) : ∃ j, decodeCommand w = .ok j ∧ tableRow j = tableRow i := by
  cases i with
  | attach | detach | encPassive | encSafe | encFull | encClean | encDock | encReset | encBeep | txPassive | txSafe
  | txFull | txClean | txDock | txReset | txBeep => exact ⟨_, decodeCommand_of_rowN rfl (by decide) h, rfl⟩
  | encDrive vr vl =>
    obtain ⟨a, b, hf⟩ := (fixesFields_encDrive vr vl).formatD_fields h
    exact ⟨.encDrive a b, decodeCommand_of_fields rfl rfl hf, rfl⟩
  | txDrive vr vl =>
    obtain ⟨a, b, hf⟩ := (fixesFields_txDrive vr vl).formatD_fields h
    exact ⟨.txDrive a b, decodeCommand_of_fields rfl rfl hf, rfl⟩
  | keyPress sym =>
    obtain ⟨sym', hf⟩ := (fixesFields_keyPress sym).formatK_fields h
    exact ⟨.keyPress sym', decodeCommand_of_fields rfl rfl hf, rfl⟩
  | keyRelease sym =>
    obtain ⟨sym', hf⟩ := (fixesFields_keyRelease sym).formatK_fields h
    exact ⟨.keyRelease sym', decodeCommand_of_fields rfl rfl hf, rfl⟩
  | read t =>
    obtain ⟨t', hf⟩ := (fixesFields_read t).formatR_fields h
    exact ⟨.read t', decodeCommand_of_fields rfl rfl hf, rfl⟩
  | encint v t =>
    obtain ⟨v', t', hf⟩ := (fixesFields_encint v t).formatE_fields h
    exact ⟨.encint v' t', decodeCommand_of_fields rfl rfl hf, rfl⟩
  | decint bs t =>
    obtain ⟨_, _, e⟩ := decodeCommand_of_rowX h hc
    exact ⟨_, e, rfl⟩
  | wirePassive | wireSafe | wireFull | wireClean | wireDock | wireReset | wireBeep | wireDrive =>
    cases isWire_of_rowSelects h

/-- Settles O4: a word that decodes is an encoding but for the bytes DECINT ignores, and its row ignores them too; and a
row's `OP` and must-be-zero fields are what the format of its operation asks for. -/
theorem decoderSelectsTableRow : Obligations.DecoderSelectsTableRow :=
  fun _ _ => ⟨row_of_decodeCommand, decodeCommand_of_row⟩

end Sys2Proof.Machine
